-- ==== Sys2Proof/Word.lean ====
section
/-! DEFINITION. The word and value types of NPS-CORE: the 32-bit word of the host bus and of a command, the bit-vector
value of the commands, and the storage strings of the register files. -/

namespace Sys2Proof

/-- One 32-bit word: what a host access moves (rule R38) and what a command is (rule R58). -/
abbrev Word := BitVec 32

/-- A BitVector VALUE (rules R7, R8): element `i` of the list is bit `i`, index 0 the least significant one, and the
list's length is the vector's `len`. -/
abbrev Vec := List Bool

/-- The storage string of a vector register, or of one row of a matrix register (rules R14, R16). 2047 is the greatest
DMAX that rule R6 allows; bits at or above the configuration's DMAX do not exist and stay 0. -/
abbrev Store := BitVec 2047

/-- The party bits of a share array (rules R12, R17, R19): bit `i - 1` of the string is party `i`'s bit. 255 is the greatest
PMAX that rule R6 allows. Index 0 of the spec's array is hard-wired to 0, so it has no storage at all. -/
abbrev PartyBits := BitVec 255

/-- A 5-bit register or context index of a command word (rules R58, R59). -/
abbrev RegIdx := BitVec 5

/-- An 11-bit unsigned immediate of a command word (rules R58, R59). -/
abbrev Imm := BitVec 11

end Sys2Proof
end

