-- ==== Sys2Proof/Syntax.lean ====
section
/-! DEFINITION. The command set "NPS-CORE command set, version 1" (rules R2, R61): one constructor for each row of
spec/opcode_table.json. -/

namespace Sys2Proof

/-- LXRD's selector SEL (rules R59, R112). SEL 6 and 7 are no selector (rule R66): the decoder rejects them. -/
inductive LxrdSel where
  /-- SEL 0: LIN of the round -/
  | lin
  /-- SEL 1: INVLIN of the round -/
  | invlin
  /-- SEL 2: KM of the round -/
  | keym
  /-- SEL 3: RC of the round -/
  | rc
  /-- SEL 4: RK of the round -/
  | rk
  /-- SEL 5: MKEY -/
  | mkey
  deriving DecidableEq, Repr

/-- A command (rule R61). The operands come in the order of the assembler syntax (rule R68), destination first. -/
inductive Instr where
  /-- `nop` (rule R75) -/
  | nop
  /-- `vxor vD, vA, vB` (rule R77) -/
  | vxor (d a b : RegIdx)
  /-- `vand vD, vA, vB` (rule R78) -/
  | vand (d a b : RegIdx)
  /-- `mvmul vD, mA, vB` (rule R79) -/
  | mvmul (d a b : RegIdx)
  /-- `rank mA` (rule R82) -/
  | rank (a : RegIdx)
  /-- `minv mD, mA` (rule R85) -/
  | minv (d a : RegIdx)
  /-- `graw vD, L` (rule R92) -/
  | graw (d : RegIdx) (len : Imm)
  /-- `gss vD, L` (rule R93) -/
  | gss (d : RegIdx) (len : Imm)
  /-- `gmat mD`, the size from ARG (rule R94) -/
  | gmat (d : RegIdx)
  /-- `linst cC` (rule R106) -/
  | linst (c : RegIdx)
  /-- `lkey cC, vK` (rule R107) -/
  | lkey (c k : RegIdx)
  /-- `lenc vD, vA, cC` (rule R108) -/
  | lenc (d a c : RegIdx)
  /-- `ldec vD, vA, cC` (rule R109) -/
  | ldec (d a c : RegIdx)
  /-- `lsub vD, vA, cC` (rule R110) -/
  | lsub (d a c : RegIdx)
  /-- `lisub vD, vA, cC` (rule R111) -/
  | lisub (d a c : RegIdx)
  /-- `lxrd mD, cC, lin|invlin|keym` or `lxrd vD, cC, rc|rk|mkey`, the round from ARG_A (rule R112) -/
  | lxrd (d c : RegIdx) (sel : LxrdSel)
  /-- `share sD, vA, k` (rule R119) -/
  | share (d a : RegIdx) (k : Imm)
  /-- `recon vD, sA, k` (rule R120) -/
  | recon (d a : RegIdx) (k : Imm)
  /-- `tgen tD` (rule R121) -/
  | tgen (d : RegIdx)
  /-- `gate.and sD, sX, sY, tT` (rule R132) -/
  | gateAnd (d x y t : RegIdx)
  /-- `gate.or sD, sX, sY, tT` (rule R133) -/
  | gateOr (d x y t : RegIdx)
  /-- `gate.xor sD, sX, sY` (rule R134) -/
  | gateXor (d x y : RegIdx)
  /-- `gate.not sD, sX` (rule R135) -/
  | gateNot (d x : RegIdx)
  /-- `gate.id sD, sX` (rule R136) -/
  | gateId (d x : RegIdx)
  /-- `vclr` (rule R137) -/
  | vclr
  deriving DecidableEq, Repr

/-- The register file, or the set of contexts, that an index field lies in (rules R58, R61). -/
inductive RegFile where
  | v | m | s | t | ctx
  deriving DecidableEq, Repr

end Sys2Proof
end

