-- ==== Sys2Proof/Decode.lean ====
section
/-! DEFINITION. The command word (rules R58 to R67), its decoder, total on every 32-bit word and rejecting by name (rule R70,
steps 1 to 4; step 5 is WellFormed's and the meanings' index check), and the encoder, written from the same tables. -/

namespace Sys2Proof

/-- Why a word is no command. Rules R64, R66 and R62 give ILLEGAL_COMMAND, rule R65 UNSUPPORTED_GATE_OPERATION. -/
inductive DecodeError where
  /-- the OP value is not in rule R61 (rule R64) -/
  | undefinedOpcode
  /-- GATE with KIND 5, 6 or 7 (rule R65) -/
  | unsupportedGate
  /-- LXRD with SEL 6 or 7 (rule R66) -/
  | undefinedSelector
  /-- a field that rule R61 marks "0" is not 0 (rule R62) -/
  | reservedField
  deriving DecidableEq, Repr

/-- `OP(cmd) = cmd[31:26]` (rule R58). -/
def fieldOp (w : Word) : BitVec 6 := w.extractLsb' 26 6
/-- `RD(cmd) = cmd[25:21]` (rule R58). -/
def fieldRd (w : Word) : RegIdx := w.extractLsb' 21 5
/-- `RS1(cmd) = cmd[20:16]` (rule R58). -/
def fieldRs1 (w : Word) : RegIdx := w.extractLsb' 16 5
/-- `RS2(cmd) = cmd[15:11]` (rule R58). -/
def fieldRs2 (w : Word) : RegIdx := w.extractLsb' 11 5
/-- `IMM(cmd) = cmd[10:0]` (rule R58). -/
def fieldImm (w : Word) : Imm := w.extractLsb' 0 11
/-- GATE's KIND and LXRD's SEL, `cmd[2:0]` (rule R59). -/
def fieldLow3 (w : Word) : BitVec 3 := w.extractLsb' 0 3
/-- GATE's TIDX, `cmd[7:3]` (rule R59). -/
def fieldTidx (w : Word) : RegIdx := w.extractLsb' 3 5
/-- GATE's reserved `cmd[10:8]` (rule R59). -/
def fieldGateRsv (w : Word) : BitVec 3 := w.extractLsb' 8 3
/-- LXRD's reserved `cmd[10:3]` (rule R59). -/
def fieldLxrdRsv (w : Word) : BitVec 8 := w.extractLsb' 3 8

/-- The command, when the fields that rule R61 marks "0" are 0 (rule R62). -/
def unreserved (zero : Bool) (i : Instr) : Except DecodeError Instr :=
  if zero then .ok i else .error .reservedField

/-- LXRD's selector, with SEL 6 and 7 rejected (rules R59, R66, R112). -/
def decodeSel (x : BitVec 3) : Option LxrdSel :=
  match x.toNat with
  | 0 => some .lin
  | 1 => some .invlin
  | 2 => some .keym
  | 3 => some .rc
  | 4 => some .rk
  | 5 => some .mkey
  | _ => none

/-- GATE (OP 0x20): KIND first (rule R65), then the reserved fields, which depend on KIND (rules R61, R62). -/
def decodeGate (w : Word) : Except DecodeError Instr :=
  let d := fieldRd w
  let x := fieldRs1 w
  let y := fieldRs2 w
  let t := fieldTidx w
  let rsv := fieldGateRsv w == 0
  match (fieldLow3 w).toNat with
  | 0 => unreserved rsv (.gateAnd d x y t)
  | 1 => unreserved rsv (.gateOr d x y t)
  | 2 => unreserved (rsv && t == 0) (.gateXor d x y)
  | 3 => unreserved (rsv && t == 0 && y == 0) (.gateNot d x)
  | 4 => unreserved (rsv && t == 0 && y == 0) (.gateId d x)
  | _ => .error .unsupportedGate

/-- LXRD (OP 0x16): SEL first (rule R66), then the reserved fields (rule R62). -/
def decodeLxrd (w : Word) : Except DecodeError Instr :=
  match decodeSel (fieldLow3 w) with
  | none => .error .undefinedSelector
  | some sel => unreserved (fieldRs2 w == 0 && fieldLxrdRsv w == 0) (.lxrd (fieldRd w) (fieldRs1 w) sel)

/-- Steps 1 to 4 of the decoding procedure (rule R70), on any 32-bit word: exactly one row of rule R61 or an error
(rule R64). -/
def decode (w : Word) : Except DecodeError Instr :=
  let rd := fieldRd w
  let a := fieldRs1 w
  let b := fieldRs2 w
  let imm := fieldImm w
  match (fieldOp w).toNat with
  | 0x00 => unreserved (rd == 0 && a == 0 && b == 0 && imm == 0) .nop
  | 0x01 => unreserved (imm == 0) (.vxor rd a b)
  | 0x02 => unreserved (imm == 0) (.vand rd a b)
  | 0x03 => unreserved (imm == 0) (.mvmul rd a b)
  | 0x04 => unreserved (rd == 0 && b == 0 && imm == 0) (.rank a)
  | 0x05 => unreserved (b == 0 && imm == 0) (.minv rd a)
  | 0x08 => unreserved (a == 0 && b == 0) (.graw rd imm)
  | 0x09 => unreserved (a == 0 && b == 0) (.gss rd imm)
  | 0x0A => unreserved (a == 0 && b == 0 && imm == 0) (.gmat rd)
  | 0x10 => unreserved (a == 0 && b == 0 && imm == 0) (.linst rd)
  | 0x11 => unreserved (b == 0 && imm == 0) (.lkey rd a)
  | 0x12 => unreserved (imm == 0) (.lenc rd a b)
  | 0x13 => unreserved (imm == 0) (.ldec rd a b)
  | 0x14 => unreserved (imm == 0) (.lsub rd a b)
  | 0x15 => unreserved (imm == 0) (.lisub rd a b)
  | 0x16 => decodeLxrd w
  | 0x18 => unreserved (b == 0) (.share rd a imm)
  | 0x19 => unreserved (b == 0) (.recon rd a imm)
  | 0x1A => unreserved (a == 0 && b == 0 && imm == 0) (.tgen rd)
  | 0x20 => decodeGate w
  | 0x21 => unreserved (rd == 0 && a == 0 && b == 0 && imm == 0) .vclr
  | _ => .error .undefinedOpcode

/-- A command word from its fields (rule R58): `OP << 26 | RD << 21 | RS1 << 16 | RS2 << 11 | IMM`. -/
def assembleWord (op : BitVec 6) (rd rs1 rs2 : RegIdx) (imm : Imm) : Word :=
  op ++ rd ++ rs1 ++ rs2 ++ imm

/-- GATE's immediate: KIND in [2:0], TIDX in [7:3], [10:8] = 0 (rule R59). -/
def gateImm (t : RegIdx) (kind : BitVec 3) : Imm :=
  0#3 ++ t ++ kind

/-- LXRD's immediate: SEL in [2:0], the rest 0 (rule R59). -/
def lxrdImm : LxrdSel → Imm
  | .lin => 0
  | .invlin => 1
  | .keym => 2
  | .rc => 3
  | .rk => 4
  | .mkey => 5

/-- The word of a command (rules R58, R61, R68): every reserved field is 0. -/
def encode : Instr → Word
  | .nop => assembleWord 0x00 0 0 0 0
  | .vxor d a b => assembleWord 0x01 d a b 0
  | .vand d a b => assembleWord 0x02 d a b 0
  | .mvmul d a b => assembleWord 0x03 d a b 0
  | .rank a => assembleWord 0x04 0 a 0 0
  | .minv d a => assembleWord 0x05 d a 0 0
  | .graw d len => assembleWord 0x08 d 0 0 len
  | .gss d len => assembleWord 0x09 d 0 0 len
  | .gmat d => assembleWord 0x0A d 0 0 0
  | .linst c => assembleWord 0x10 c 0 0 0
  | .lkey c k => assembleWord 0x11 c k 0 0
  | .lenc d a c => assembleWord 0x12 d a c 0
  | .ldec d a c => assembleWord 0x13 d a c 0
  | .lsub d a c => assembleWord 0x14 d a c 0
  | .lisub d a c => assembleWord 0x15 d a c 0
  | .lxrd d c sel => assembleWord 0x16 d c 0 (lxrdImm sel)
  | .share d a k => assembleWord 0x18 d a 0 k
  | .recon d a k => assembleWord 0x19 d a 0 k
  | .tgen d => assembleWord 0x1A d 0 0 0
  | .gateAnd d x y t => assembleWord 0x20 d x y (gateImm t 0)
  | .gateOr d x y t => assembleWord 0x20 d x y (gateImm t 1)
  | .gateXor d x y => assembleWord 0x20 d x y (gateImm 0 2)
  | .gateNot d x => assembleWord 0x20 d x 0 (gateImm 0 3)
  | .gateId d x => assembleWord 0x20 d x 0 (gateImm 0 4)
  | .vclr => assembleWord 0x21 0 0 0 0

/-- The decoder's reading of an instruction whose bits are `w`, as spec/opcode_table.json numbers them: a command is one
32-bit word (rule R67), so the bits from `nbits` up are 0. -/
def decodeTableWord (nbits w : Nat) : Option Instr :=
  match decode (BitVec.ofNat 32 (w % 2 ^ nbits)) with
  | .ok i => some i
  | .error _ => none

end Sys2Proof
end

