-- ==== Sys2Proof/Machine/Bits.lean ====
section
/-! DEFINITION. Bit strings: GF(2) operations on vector values (rules R7 to R10), values in and out of storage strings
(rules R14 to R17), and the 32-bit words the host sees of them (rule R48). -/

namespace Sys2Proof.Machine

/-- `v[i]`, 0 beyond the vector. -/
def bitAt (v : Vec) (i : Nat) : Bool := v.getD i false

/-- Elementwise `⊕` (rule R10). -/
def vecXor (u w : Vec) : Vec := List.zipWith xor u w

/-- Elementwise `∧` (rule R10). -/
def vecAnd (u w : Vec) : Vec := List.zipWith and u w

/-- `parity_j v[j]`: the XOR of all bits, 0 over an empty range (rule R10). -/
def parity : Vec → Bool
  | [] => false
  | b :: v => xor b (parity v)

/-- The integer that a vector is read as: bit `i` has weight `2^i` (rule R7). -/
def natOfBits : Vec → Nat
  | [] => 0
  | b :: v => b.toNat + 2 * natOfBits v

/-- The first `len` bits of a string, as a vector value (rules R8, R14). -/
def valueOf {n : Nat} (len : Nat) (b : BitVec n) : Vec := (List.range len).map b.getLsbD

/-- A vector value stored whole: its bits at the low end, 0 at and above its length (rule R15). -/
def storeOf (n : Nat) (v : Vec) : BitVec n := BitVec.ofNat n (natOfBits v)

/-- The storage bits below `size`; the others do not exist. -/
def cutTo {n : Nat} (size : Nat) (b : BitVec n) : BitVec n := b &&& BitVec.ofNat n (2 ^ size - 1)

/-- The string with bit `k` replaced by `b`. -/
def putBit {n : Nat} (k : Nat) (b : Bool) (x : BitVec n) : BitVec n :=
  if b then x ||| BitVec.twoPow n k else x &&& ~~~(BitVec.twoPow n k)

/-- Word `w` of a string: bit `k` of it is element `32·w + k` (rule R48). -/
def wordOf {n : Nat} (b : BitVec n) (w : Nat) : Word := b.extractLsb' (32 * w) 32

/-- The string with word `w` replaced: element `32·w + k` takes bit `k` of `x` (rules R45, R48). -/
def putWord {n : Nat} (b : BitVec n) (w : Nat) (x : Word) : BitVec n :=
  (b &&& ~~~((BitVec.allOnes 32).setWidth n <<< (32 * w))) ||| (x.setWidth n <<< (32 * w))

/-- How many 32-bit words hold `size` elements: `ceil(size / 32)` (rule R47). -/
def wordsFor (size : Nat) : Nat := (size + 31) / 32

/-- A share array as the host sees it, elements 0 to PMAX: element 0 is hard-wired to 0 and element `i` is party `i`'s bit
(rules R12, R17). -/
def partyString (b : PartyBits) : BitVec 256 := b ++ 0#1

/-- The party bits of a share array; element 0 ignores writes (rule R17). -/
def partyBitsOf (x : BitVec 256) : PartyBits := x.extractLsb' 1 255

/-- The bits of parties 1 to `n` of a share array, party 1 first. -/
def partyValue (n : Nat) (b : PartyBits) : Vec := valueOf n b

/-- A share value for `z.length` parties, with the bits of the other parties cleared (rule R17). -/
def partyStore (z : Vec) : PartyBits := storeOf 255 z

end Sys2Proof.Machine
end

