-- ==== Sys2Proof/Config.lean ====
section
/-! DEFINITION. What an implementation fixes (rule R6) and the values the spec leaves to the environment: true-random bits
(rule R113) and the unspecified reads of a busy engine (rule R50). -/

namespace Sys2Proof

/-- The implementation parameters of rule R6. A machine carries its parameters in the field `cfg` of its state, which no
step changes, so that a statement over every state is a statement over every configuration (DESIGN CHOICE, log entry 1). -/
structure Params where
  /-- longest vector, largest matrix dimension, largest blockSize and keySize -/
  dmax : Nat
  /-- largest party count -/
  pmax : Nat
  /-- number of vector registers -/
  nv : Nat
  /-- number of matrix registers -/
  nm : Nat
  /-- number of share registers -/
  ns : Nat
  /-- number of triple registers -/
  nt : Nat
  /-- number of cipher contexts -/
  nctx : Nat
  /-- largest round count -/
  rmax : Nat
  /-- view buffer capacity per party, in bits -/
  vcap : Nat
  deriving DecidableEq, Repr

/-- The constraints of rule R6 on the parameters. -/
abbrev Params.valid (p : Params) : Prop :=
  (3 ≤ p.dmax ∧ p.dmax ≤ 2047) ∧ (2 ≤ p.pmax ∧ p.pmax ≤ 255) ∧
  (1 ≤ p.nv ∧ p.nv ≤ 32) ∧ (1 ≤ p.nm ∧ p.nm ≤ 32) ∧ (1 ≤ p.ns ∧ p.ns ≤ 32) ∧ (1 ≤ p.nt ∧ p.nt ≤ 32) ∧
  (1 ≤ p.nctx ∧ p.nctx ≤ 32) ∧ p.rmax ≤ 1023 ∧
  (32 ≤ p.vcap ∧ p.vcap ≤ 2 ^ 25 ∧ p.vcap % 32 = 0)

/-- The reference configuration REF of rule R6. -/
def Params.ref : Params :=
  { dmax := 256, pmax := 8, nv := 8, nm := 4, ns := 16, nt := 4, nctx := 2, rmax := 32, vcap := 4096 }

/-- FREE VALUE (log entry 4): the k-th true-random bit, where the TRNG answers without a scripted bit: with an empty script
and while the host waits (log entry 24). Any value is possible and none depends on another (rule R113): nothing constrains this constant. -/
opaque Config.trngBit : Nat → Bool

/-- FREE VALUE (log entry 5): what the k-th read of WDATA, WLEN, LFSR0 to LFSR2 or RETRIES returns while a command is in
flight (rule R50: "return an unspecified value"). Nothing constrains this constant. -/
opaque Config.busyRead : Nat → Word

end Sys2Proof
end

