-- ==== Sys2Proof/Machine/State.lean ====
section
/-! DEFINITION. The state of NPS-CORE (rule R13) as plain data, its error codes, the environment's script, and the state right
after reset (rules R158, R159). -/

namespace Sys2Proof.Machine

/-- The error codes of rule R139. A machine's ERR.CODE is `Option CmdError`, `none` being code 0 (NONE); codes 8 to 255 are
never produced. -/
inductive CmdError where
  /-- code 1 -/
  | invalidParameters
  /-- code 2 -/
  | singularMatrix
  /-- code 3 -/
  | unsupportedGateOperation
  /-- code 4 -/
  | tripleExhausted
  /-- code 5 -/
  | illegalCommand
  /-- code 6 -/
  | notReady
  /-- code 7 -/
  | viewOverflow
  deriving DecidableEq, Repr

/-- Why the machine stops with a fault: never. Every failure of a command is a code in ERR (rule R138: "A host access never
causes an error", "Every command either succeeds or fails with exactly one error code"), so the type has no constructor. -/
inductive Fault where
  deriving DecidableEq, Repr

/-- Why a step has no meaning. -/
inductive Refusal where
  /-- Raised by an arm of `exec` whose instruction has no meaning yet; no arm raises it. Safe: the model stops. -/
  | notModelled (mnemonic : String)
  /-- Raised by a host access that is not one 32-bit word at an offset that is a multiple of 4 below 0x1000 (rule R38: "Any
  other form is refused: the model gives it no meaning"). Safe: the bus cannot express such an access. -/
  | hostAccessForm
  deriving DecidableEq, Repr

/-- A vector register (rules R14, R15). -/
structure VReg where
  /-- `len`, 0 to DMAX -/
  len : Nat
  /-- the DMAX storage bits -/
  bits : Store
  deriving DecidableEq, Repr

/-- A matrix register (rule R16). -/
structure MReg where
  /-- `rows`, 0 to DMAX -/
  rows : Nat
  /-- `cols`, 0 to DMAX -/
  cols : Nat
  /-- the DMAX storage rows, row 0 first -/
  bits : List Store
  deriving DecidableEq, Repr

/-- A share register (rules R17, R18). -/
structure SReg where
  /-- `cnt`, 0 to PMAX -/
  cnt : Nat
  /-- `b[1]` to `b[PMAX]` -/
  b : PartyBits
  deriving DecidableEq, Repr

/-- A triple register (rules R19, R20). -/
structure TReg where
  /-- the flag `valid` -/
  valid : Bool
  /-- `cnt`, 0 to PMAX -/
  cnt : Nat
  /-- `A[1]` to `A[PMAX]` -/
  a : PartyBits
  /-- `B[1]` to `B[PMAX]` -/
  b : PartyBits
  /-- `C[1]` to `C[PMAX]` -/
  c : PartyBits
  deriving DecidableEq, Repr

/-- A Matrix VALUE (rule R9): `row[r]` is row `r`, a vector of length `cols`; there are `rows` of them. -/
structure Mat where
  rows : Nat
  cols : Nat
  row : List Vec
  deriving DecidableEq, Repr

/-- The empty matrix value (rule R24: "every matrix and vector empty"). -/
def Mat.empty : Mat := { rows := 0, cols := 0, row := [] }

/-- The parameters of a cipher context, the contents of CXP0 and CXP1 (rules R24, R25). -/
structure CxParams where
  /-- CXP0.BS, blockSize -/
  bs : BitVec 11
  /-- CXP0.KS, keySize -/
  ks : BitVec 11
  /-- CXP1.NSB, numSboxes -/
  m : BitVec 10
  /-- CXP1.ROUNDS, rounds -/
  r : BitVec 10
  deriving DecidableEq, Repr

/-- A cipher context (rule R24). -/
structure Ctx where
  /-- the live CXP0 and CXP1 -/
  par : CxParams
  /-- CXST.INST -/
  inst : Bool
  /-- CXST.KEYED -/
  keyed : Bool
  /-- `LIN[0..r-1]` -/
  lin : List Mat
  /-- `INVLIN[0..r-1]` -/
  invlin : List Mat
  /-- `RC[0..r-1]` -/
  rc : List Vec
  /-- `KM[0..r]` -/
  km : List Mat
  /-- `MKEY` -/
  mkey : Vec
  /-- `RK[0..r]`; `[]` where every RK is empty -/
  rk : List Vec
  deriving DecidableEq, Repr

/-- The deterministic bit generator (rule R23). -/
structure Lfsr where
  /-- `LFSR.S`, bits S[0] to S[79] -/
  s : BitVec 80
  /-- `LFSR.INIT` -/
  init : Bool
  deriving DecidableEq, Repr

/-- The in-flight command (rules R34, R71, R72): the command word, every control value sampled at its acceptance, and the
true-random bits the TRNG has delivered to it so far (rules R113, R158). -/
structure Job where
  /-- the command word -/
  word : Word
  /-- ARG_A -/
  argA : BitVec 11
  /-- ARG_B -/
  argB : BitVec 11
  /-- PARTIES.N -/
  n : BitVec 8
  /-- CTRL.NOTALL -/
  notAll : Bool
  /-- CXP0 and CXP1 of every context -/
  cxp : List CxParams
  /-- the TRNG bits delivered to this command, the first delivered first -/
  trngBits : List Bool
  deriving DecidableEq, Repr

/-- What the engine is doing. STATUS.BUSY is 1 in every phase but `idle` (rules R29, R34): it has no storage of its own. -/
inductive Phase where
  /-- BUSY = 0: waiting for a CMD write (rule R160) -/
  | idle
  /-- the reset-clearing phase (rules R51, R158) -/
  | clearing
  /-- a command is in flight (rules R71 to R73) -/
  | running (job : Job)
  deriving DecidableEq, Repr

/-- One event of the environment's script: what the outside world does to the block next (rules R5, R37), or whose turn it
is (rules R52, R73). -/
inductive EnvEvent where
  /-- a host read of `size` bytes at byte offset `addr` (rule R38) -/
  | read (addr size : Nat)
  /-- a host write (rule R38) -/
  | write (addr size : Nat) (v : Word)
  /-- the host's `wait`: read STATUS until BUSY = 0 (rule R69); meanwhile the TRNG answers at once (log entry 24) -/
  | poll
  /-- `rst_n` is low (rules R37, R157) -/
  | resetPin
  /-- the TRNG drives trng_valid = 1 with trng_bit = `b` (rules R37, R113) -/
  | trng (b : Bool)
  /-- the scheduler gives the engine its turn, with no answer from the TRNG (rules R73, R171) -/
  | turn
  deriving DecidableEq, Repr

/-- The machine. The fields down to `phase` are the spec's (rule R13); the five under them are the MODEL's own: the
environment's script, the output of the last host read, and the two counters that make its free values fresh (log entries
2 to 5). -/
structure State where
  /-- the parameters of rule R6; no step changes them (log entry 1) -/
  cfg : Params
  /-- the vector file V (rule R14) -/
  v : List VReg
  /-- the matrix file M (rule R16) -/
  m : List MReg
  /-- the share file S (rule R17) -/
  sh : List SReg
  /-- the triple file T (rule R19) -/
  tr : List TReg
  /-- the view buffers VIEW[1..PMAX], party 1 first; each holds the VPTR bits appended so far, and a bit at or above the
  list's length reads 0 (rule R21) -/
  views : List Vec
  /-- VPTR (rule R21) -/
  vptr : Nat
  /-- PARTIES.N (rule R22) -/
  parties : BitVec 8
  /-- the generator (rule R23) -/
  lfsr : Lfsr
  /-- the cipher contexts CX, with CXP0, CXP1 and CXST (rules R24, R25) -/
  cx : List Ctx
  /-- RESULT (rule R26) -/
  result : Word
  /-- RETRIES (rule R26) -/
  retries : Word
  /-- ARG_A (rule R31) -/
  argA : BitVec 11
  /-- ARG_B (rule R31) -/
  argB : BitVec 11
  /-- CTRL.IE_DONE (rule R28) -/
  ieDone : Bool
  /-- CTRL.IE_ERR (rule R28) -/
  ieErr : Bool
  /-- CTRL.NOTALL (rule R28) -/
  notAll : Bool
  /-- STATUS.DONE (rule R29) -/
  done : Bool
  /-- STATUS.DROP (rule R29) -/
  drop : Bool
  /-- ERR.CODE (rules R30, R139) -/
  err : Option CmdError
  /-- ERRCMD (rule R30) -/
  errCmd : Word
  /-- WSEL (rule R43) -/
  wsel : Word
  /-- the in-flight command or the reset-clearing phase (rule R34) -/
  phase : Phase
  /-- MODEL's own: the environment's script, the next event first (log entry 2) -/
  env : List EnvEvent
  /-- bus_rdata: what the last host read returned (rule R37; the latch is the MODEL's own, log entry 3) -/
  rdata : Word
  /-- TRNG consumption: how many true-random bits the engine has taken (rules R34, R113; log entry 4) -/
  trngUsed : Nat
  /-- MODEL's own: how many unspecified reads were made (rule R50; log entry 5) -/
  freeReads : Nat
  deriving DecidableEq, Repr

/-- A vector register after reset (rules R14, R159). -/
def VReg.empty : VReg := { len := 0, bits := 0 }

/-- A matrix register after reset (rules R16, R159). -/
def MReg.empty (p : Params) : MReg := { rows := 0, cols := 0, bits := List.replicate p.dmax 0 }

/-- A share register after reset (rules R17, R159). -/
def SReg.empty : SReg := { cnt := 0, b := 0 }

/-- A triple register after reset (rules R19, R159). -/
def TReg.empty : TReg := { valid := false, cnt := 0, a := 0, b := 0, c := 0 }

/-- CXP0 = CXP1 = 0 (rules R25, R159). -/
def CxParams.zero : CxParams := { bs := 0, ks := 0, m := 0, r := 0 }

/-- A cipher context after reset (rules R24, R25, R159). -/
def Ctx.empty : Ctx :=
  { par := .zero, inst := false, keyed := false, lin := [], invlin := [], rc := [], km := [], mkey := [], rk := [] }

/-- The generator after reset: S all ones, INIT 0 (rules R23, R159). -/
def Lfsr.reset : Lfsr := { s := 0xFFFFFFFFFFFFFFFFFFFF, init := false }

/-- The block with parameters `p` right after reset (rules R158, R159), at the start of the reset-clearing phase: BUSY reads 1
and every element holds its reset value. Nothing stands in the environment's script. -/
def State.resetOf (p : Params) : State :=
  { cfg := p
    v := List.replicate p.nv .empty
    m := List.replicate p.nm (.empty p)
    sh := List.replicate p.ns .empty
    tr := List.replicate p.nt .empty
    views := List.replicate p.pmax []
    vptr := 0
    parties := 0
    lfsr := .reset
    cx := List.replicate p.nctx .empty
    result := 0
    retries := 0
    argA := 0
    argB := 0
    ieDone := false
    ieErr := false
    notAll := false
    done := false
    drop := false
    err := none
    errCmd := 0
    wsel := 0
    phase := .clearing
    env := []
    rdata := 0
    trngUsed := 0
    freeReads := 0 }

/-- The machine right after reset, in the reference configuration REF (rules R6, R159; log entry 1). -/
def State.reset : State := State.resetOf .ref

end Sys2Proof.Machine
end

