-- ==== Sys2Proof/Machine/Ops.lean ====
section
/-! DEFINITION. The named operations over the state: reading and writing the register files (rules R14 to R20), the in-flight
command (rules R71, R72), completion (rule R73), the recording of an error, which is this hardware's entry into error
handling (rules R141, R142), the return from it (rule R143), and reset (rule R158). -/

namespace Sys2Proof.Machine

/-! ### Register files -/

/-- Vector register `V[i]` (rule R14). -/
def State.vreg (s : State) (i : RegIdx) : VReg := s.v.getD i.toNat .empty

/-- Matrix register `M[i]` (rule R16). -/
def State.mreg (s : State) (i : RegIdx) : MReg := s.m.getD i.toNat (.empty s.cfg)

/-- Share register `S[i]` (rule R17). -/
def State.sreg (s : State) (i : RegIdx) : SReg := s.sh.getD i.toNat .empty

/-- Triple register `T[i]` (rule R19). -/
def State.treg (s : State) (i : RegIdx) : TReg := s.tr.getD i.toNat .empty

/-- Cipher context `CX[c]` (rule R24). -/
def State.ctx (s : State) (c : RegIdx) : Ctx := s.cx.getD c.toNat .empty

/-- The value of `V[i]`: only the bits `j < len` (rules R14, R15). -/
def State.vec (s : State) (i : RegIdx) : Vec := valueOf (s.vreg i).len (s.vreg i).bits

/-- The value of `M[i]`: only the declared region (rule R16). -/
def State.mat (s : State) (i : RegIdx) : Mat :=
  let r := s.mreg i
  { rows := r.rows, cols := r.cols, row := (List.range r.rows).map fun k => valueOf r.cols (r.bits.getD k 0) }

/-- The shares of parties 1 to `n` in `S[i]` (rule R17). -/
def State.share (s : State) (n : Nat) (i : RegIdx) : Vec := partyValue n (s.sreg i).b

/-- `V[i] <- v`: length and bits, with every storage bit at or above the length cleared (rule R15). -/
def State.putVec (s : State) (i : RegIdx) (v : Vec) : State :=
  { s with v := s.v.set i.toNat { len := v.length, bits := storeOf 2047 v } }

/-- `V[i].bits[k] <- b`, the one-bit write of RECON: the length and every other bit stay (rule R15). -/
def State.putVecBit (s : State) (i : RegIdx) (k : Nat) (b : Bool) : State :=
  { s with v := s.v.set i.toNat { s.vreg i with bits := putBit k b (s.vreg i).bits } }

/-- A matrix value stored whole in `dmax` storage rows: dimensions and region, every other storage bit 0 (rule R16). -/
def matStore (dmax : Nat) (A : Mat) : MReg :=
  { rows := A.rows, cols := A.cols, bits := (List.range dmax).map fun r => storeOf 2047 (A.row.getD r []) }

/-- `M[i] <- A` (rule R16). -/
def State.putMat (s : State) (i : RegIdx) (A : Mat) : State :=
  { s with m := s.m.set i.toNat (matStore s.cfg.dmax A) }

/-- `S[i] <- z` for party count `n`: `cnt <- n` and the bits above `n` cleared (rule R17). -/
def State.putShare (s : State) (i : RegIdx) (n : Nat) (z : Vec) : State :=
  { s with sh := s.sh.set i.toNat { cnt := n, b := partyStore z } }

/-- `T[i] <- t` (rule R121). -/
def State.putTriple (s : State) (i : RegIdx) (t : TReg) : State :=
  { s with tr := s.tr.set i.toNat t }

/-- `T[i].valid <- 0` (rule R130). -/
def State.useTriple (s : State) (i : RegIdx) : State :=
  s.putTriple i { s.treg i with valid := false }

/-- `CX[c] <- x` (rule R24). -/
def State.putCtx (s : State) (c : RegIdx) (x : Ctx) : State :=
  { s with cx := s.cx.set c.toNat x }

/-- The generator takes a new state (rule R23). -/
def State.putLfsr (s : State) (l : Lfsr) : State := { s with lfsr := l }

/-- `RESULT <- x` (rules R26, R82). -/
def State.putResult (s : State) (x : Word) : State := { s with result := x }

/-- `RETRIES <- x` (rules R26, R98). -/
def State.putRetries (s : State) (x : Word) : State := { s with retries := x }

/-- New view buffers and their pointer (rules R21, R129, R137). -/
def State.putViews (s : State) (views : List Vec) (vptr : Nat) : State := { s with views := views, vptr := vptr }

/-! ### The in-flight command -/

/-- What acceptance records of a command (rule R71): the word, ARG, PARTIES.N, CTRL.NOTALL, and CXP0 and CXP1 of every
context. -/
def State.sample (s : State) (w : Word) : Job :=
  { word := w, argA := s.argA, argB := s.argB, n := s.parties, notAll := s.notAll, cxp := s.cx.map (·.par), trngBits := [] }

/-- The record the command in flight reads its sampled inputs from (rule R72). With no command in flight, which no step
brings about, it is a record sampled now (log entry 7). -/
def State.job (s : State) : Job :=
  match s.phase with
  | .running j => j
  | _ => s.sample 0

/-- Acceptance of a CMD write (rule R71): `BUSY <- 1; DONE <- 0; inflight <- …`. -/
def State.accept (s : State) (w : Word) : State :=
  { s with phase := .running (s.sample w), done := false }

/-! ### Completion, the recording of an error, and the return from it -/

/-- What a command's checks and operation come to, before its completion is made (rule R73). -/
inductive OpResult where
  /-- every check held: the operation's writes are made -/
  | ok (s : State)
  /-- the first check that failed gives this code (rule R140) -/
  | fail (e : CmdError)
  /-- the operation cannot finish: the engine stays BUSY (rule R73 (a) and (b)) -/
  | wait

/-- `BUSY <- 0; DONE <- 1; inflight <- none` (rule R73). -/
def State.retire (s : State) : State := { s with phase := .idle, done := true }

/-- ENTRY INTO ERROR HANDLING (rules R141, R142): `ERR.CODE <- e; ERRCMD <- the failing command word; BUSY <- 0; DONE <- 1`,
and nothing else changes. -/
def State.failCommand (s : State) (e : CmdError) : State :=
  { s with err := some e, errCmd := s.job.word, phase := .idle, done := true }

/-- RETURN (rule R143): `ERR.CODE <- 0; ERRCMD <- 0`, and nothing else changes. -/
def State.clearError (s : State) : State := { s with err := none, errCmd := 0 }

/-- The completion step of the command whose checks and operation come to `r` (rule R73). -/
def complete (s : State) (r : OpResult) : Host.Outcome State Fault Refusal :=
  match r with
  | .ok t => .next t.retire
  | .fail e => .next (s.failCommand e)
  | .wait => .next s

/-- The first failing check of a command, in the order of its list (rule R140): `none` when every check holds. -/
def firstFail : List (Bool × CmdError) → Option CmdError
  | [] => none
  | (holds, e) :: rest => if holds then firstFail rest else some e

/-- The operation `r`, made only when every check holds (rules R140, R141). -/
def checked (checks : List (Bool × CmdError)) (r : OpResult) : OpResult :=
  match firstFail checks with
  | some e => .fail e
  | none => r

/-- The code that a word which is no command fails with (rules R62, R64 to R66, R70). -/
def decodeErrorCode : DecodeError → CmdError
  | .undefinedOpcode => .illegalCommand
  | .unsupportedGate => .unsupportedGateOperation
  | .undefinedSelector => .illegalCommand
  | .reservedField => .illegalCommand

/-- ERR.CODE's number (rule R139). -/
def errorNumber : Option CmdError → Nat
  | none => 0
  | some .invalidParameters => 1
  | some .singularMatrix => 2
  | some .unsupportedGateOperation => 3
  | some .tripleExhausted => 4
  | some .illegalCommand => 5
  | some .notReady => 6
  | some .viewOverflow => 7

/-! ### Reset -/

/-- A hardware or soft reset (rules R157, R158): every element takes its reset value, an in-flight command is abandoned with
no effect, and the reset-clearing phase begins. The parameters are no state, and the model's own fields stay: the script,
the last read, and the counters, so that no true-random bit is used twice. -/
def State.hardReset (s : State) : State :=
  { State.resetOf s.cfg with env := s.env, rdata := s.rdata, trngUsed := s.trngUsed, freeReads := s.freeReads }

/-- The end of the reset-clearing phase (rule R158): `clearing <- 0; BUSY <- 0`. -/
def State.endClearing (s : State) : State := { s with phase := .idle }

end Sys2Proof.Machine
end

