-- ==== Sys2Proof/Machine/Flags.lean ====
section
/-! DEFINITION. The status flags (rules R29, R33), the interrupt output (rules R146 to R148) and the writes of CTRL and STATUS
(rules R28, R29, R143, R147). -/

namespace Sys2Proof.Machine

/-- STATUS.BUSY (rule R29): from acceptance to completion, and in the reset-clearing phase. -/
def State.busy (s : State) : Bool :=
  match s.phase with
  | .idle => false
  | .clearing => true
  | .running _ => true

/-- The output `irq` and STATUS.IRQ (rule R146): `(IE_DONE ∧ DONE) ∨ (IE_ERR ∧ ERR.CODE ≠ 0)`. -/
def State.irq (s : State) : Bool := (s.ieDone && s.done) || (s.ieErr && s.err.isSome)

/-- One bit of a register word. -/
def flagBit (k : Nat) (b : Bool) : Word := if b then BitVec.twoPow 32 k else 0

/-- STATUS as a read returns it: BUSY [0], DONE [1], DROP [2], IRQ [3]; ERRCLR reads 0 (rule R29). -/
def State.statusWord (s : State) : Word :=
  flagBit 0 s.busy ||| flagBit 1 s.done ||| flagBit 2 s.drop ||| flagBit 3 s.irq

/-- CTRL as a read returns it: IE_DONE [0], IE_ERR [1], NOTALL [2]; SRST reads 0 (rule R28). -/
def State.ctrlWord (s : State) : Word :=
  flagBit 0 s.ieDone ||| flagBit 1 s.ieErr ||| flagBit 2 s.notAll

/-- A STATUS write: DONE and DROP are write-1-to-clear, ERRCLR clears ERR and ERRCMD; one write acts on all three (rules R29,
R143, R147). -/
def State.writeStatus (s : State) (x : Word) : State :=
  let t := if x.getLsbD 31 then s.clearError else s
  { t with done := t.done && !x.getLsbD 1, drop := t.drop && !x.getLsbD 2 }

/-- A CTRL write: with SRST = 1 a soft reset, the other bits of the write discarded; else the three fields (rule R28). -/
def State.writeCtrl (s : State) (x : Word) : State :=
  if x.getLsbD 31 then s.hardReset
  else { s with ieDone := x.getLsbD 0, ieErr := x.getLsbD 1, notAll := x.getLsbD 2 }

/-- STATUS.DROP <- 1 (rules R50, R71, R163). -/
def State.setDrop (s : State) : State := { s with drop := true }

end Sys2Proof.Machine
end

