-- ==== Sys2Proof/Machine/Window.lean ====
section
/-! DEFINITION. The window WSEL, WDATA, WLEN into the register files and the view buffers (rules R43 to R48). -/

namespace Sys2Proof.Machine

/-- WSEL.FILE, bits [31:28] (rule R43). -/
def State.winFile (s : State) : Nat := (s.wsel.extractLsb' 28 4).toNat
/-- WSEL.REG, bits [27:20] (rule R43). -/
def State.winReg (s : State) : Nat := (s.wsel.extractLsb' 20 8).toNat
/-- WSEL.IDX, bits [19:0]: the word index for V, S and VIEW (rule R43). -/
def State.winIdx (s : State) : Nat := (s.wsel.extractLsb' 0 20).toNat
/-- WSEL.IDX[19:8]: the row for M, the component for T (rule R43). -/
def State.winRow (s : State) : Nat := (s.wsel.extractLsb' 8 12).toNat
/-- WSEL.IDX[7:0]: the word index for M and T (rule R43). -/
def State.winCol (s : State) : Nat := (s.wsel.extractLsb' 0 8).toNat

/-- A register the window selects (rule R43). -/
inductive WinReg where
  | v (i : Nat)
  | m (i : Nat)
  | s (i : Nat)
  | t (i : Nat)
  /-- the view buffer of party `p`, 1 to PMAX -/
  | view (p : Nat)
  deriving DecidableEq, Repr

/-- The selected register: the first two conditions of rule R47. -/
def State.winSel (s : State) : Option WinReg :=
  let r := s.winReg
  match s.winFile with
  | 0 => if r < s.cfg.nv then some (.v r) else none
  | 1 => if r < s.cfg.nm then some (.m r) else none
  | 2 => if r < s.cfg.ns then some (.s r) else none
  | 3 => if r < s.cfg.nt then some (.t r) else none
  | 4 => if 1 ≤ r ∧ r ≤ s.cfg.pmax then some (.view r) else none
  | _ => none

/-- Row `r` of a matrix register's storage. -/
def MReg.storeRow (x : MReg) (r : Nat) : Store := x.bits.getD r 0

/-- The share array of a triple that a component number selects: 0 = A, 1 = B, 2 = C (rule R43). -/
def TReg.component (x : TReg) : Nat → Option PartyBits
  | 0 => some x.a
  | 1 => some x.b
  | 2 => some x.c
  | _ => none

/-- Word `w` of a view buffer; a bit that is not appended yet reads 0 (rules R21, R48). -/
def viewWord (v : Vec) (w : Nat) : Word := storeOf 32 ((v.drop (32 * w)).take 32)

/-- A WDATA read (rules R44, R47): 0 where the selection is not valid. -/
def State.readWdata (s : State) : Word :=
  match s.winSel with
  | none => 0
  | some (.v i) =>
    if s.winIdx < wordsFor s.cfg.dmax then wordOf (cutTo s.cfg.dmax (s.v.getD i .empty).bits) s.winIdx else 0
  | some (.m i) =>
    if s.winRow < s.cfg.dmax ∧ s.winCol < wordsFor s.cfg.dmax then
      wordOf (cutTo s.cfg.dmax ((s.m.getD i (.empty s.cfg)).storeRow s.winRow)) s.winCol
    else 0
  | some (.s i) =>
    if s.winIdx < wordsFor (s.cfg.pmax + 1) then
      wordOf (cutTo (s.cfg.pmax + 1) (partyString (s.sh.getD i .empty).b)) s.winIdx
    else 0
  | some (.t i) =>
    match (s.tr.getD i .empty).component s.winRow with
    | none => 0
    | some b => if s.winCol < wordsFor (s.cfg.pmax + 1) then wordOf (cutTo (s.cfg.pmax + 1) (partyString b)) s.winCol else 0
  | some (.view p) =>
    if s.winIdx < wordsFor s.cfg.vcap then viewWord (s.views.getD (p - 1) []) s.winIdx else 0

/-- A WDATA write (rules R45, R47): files V, M and S only; bits beyond the string's storage size are discarded, and lengths,
counts and dimensions do not change. -/
def State.writeWdata (s : State) (x : Word) : State :=
  match s.winSel with
  | some (.v i) =>
    let r := s.v.getD i .empty
    if s.winIdx < wordsFor s.cfg.dmax then
      { s with v := s.v.set i { r with bits := cutTo s.cfg.dmax (putWord r.bits s.winIdx x) } }
    else s
  | some (.m i) =>
    let r := s.m.getD i (.empty s.cfg)
    if s.winRow < s.cfg.dmax ∧ s.winCol < wordsFor s.cfg.dmax then
      let row := cutTo s.cfg.dmax (putWord (r.storeRow s.winRow) s.winCol x)
      { s with m := s.m.set i { r with bits := r.bits.set s.winRow row } }
    else s
  | some (.s i) =>
    let r := s.sh.getD i .empty
    if s.winIdx < wordsFor (s.cfg.pmax + 1) then
      let b := partyBitsOf (cutTo (s.cfg.pmax + 1) (putWord (partyString r.b) s.winIdx x))
      { s with sh := s.sh.set i { r with b := b } }
    else s
  | some (.t _) => s
  | some (.view _) => s
  | none => s

/-- A WLEN read (rules R46, R47): the metadata of the selected register, 0 where no register is selected. -/
def State.readWlen (s : State) : Word :=
  match s.winSel with
  | none => 0
  | some (.v i) => (BitVec.ofNat 11 (s.v.getD i .empty).len).setWidth 32
  | some (.m i) =>
    let r := s.m.getD i (.empty s.cfg)
    (BitVec.ofNat 11 r.rows).setWidth 32 ||| ((BitVec.ofNat 11 r.cols).setWidth 32 <<< 16)
  | some (.s i) => (BitVec.ofNat 8 (s.sh.getD i .empty).cnt).setWidth 32
  | some (.t i) =>
    let r := s.tr.getD i .empty
    (BitVec.ofNat 8 r.cnt).setWidth 32 ||| (if r.valid then BitVec.twoPow 32 31 else 0)
  | some (.view _) => BitVec.ofNat 32 s.vptr

/-- A WLEN write (rules R46, R47): the metadata of V, M or S; a value beyond DMAX or PMAX makes the whole write ignored, and
the storage bits do not change. -/
def State.writeWlen (s : State) (x : Word) : State :=
  let low := (x.extractLsb' 0 11).toNat
  let high := (x.extractLsb' 16 11).toNat
  let cnt := (x.extractLsb' 0 8).toNat
  match s.winSel with
  | some (.v i) => if low ≤ s.cfg.dmax then { s with v := s.v.set i { s.v.getD i .empty with len := low } } else s
  | some (.m i) =>
    if low ≤ s.cfg.dmax ∧ high ≤ s.cfg.dmax then
      { s with m := s.m.set i { s.m.getD i (.empty s.cfg) with rows := low, cols := high } }
    else s
  | some (.s i) => if cnt ≤ s.cfg.pmax then { s with sh := s.sh.set i { s.sh.getD i .empty with cnt := cnt } } else s
  | some (.t _) => s
  | some (.view _) => s
  | none => s

end Sys2Proof.Machine
end

