-- ==== Sys2Proof/Machine/Bus.lean ====
section
/-! DEFINITION. The host register space (rules R27, R36 to R41) and every host access in every phase of the engine (rules R50,
R51, R71). -/

namespace Sys2Proof.Machine

/-- A register of the map of rule R27. -/
inductive HostReg where
  | id | cfg0 | cfg1 | cfg2 | cfg3 | ctrl | status | err | errcmd | cmd | arg | result | parties | vptr | retries
  | lfsr0 | lfsr1 | lfsr2 | wsel | wdata | wlen
  | cxp0 (c : Nat)
  | cxp1 (c : Nat)
  | cxst (c : Nat)
  deriving DecidableEq, Repr

/-- The map of rule R27 below offset 0x100. -/
def registerMap : List (Nat × HostReg) :=
  [(0x000, .id), (0x004, .cfg0), (0x008, .cfg1), (0x00C, .cfg2), (0x010, .cfg3), (0x014, .ctrl), (0x018, .status),
   (0x01C, .err), (0x020, .errcmd), (0x024, .cmd), (0x028, .arg), (0x02C, .result), (0x030, .parties), (0x034, .vptr),
   (0x038, .retries), (0x040, .lfsr0), (0x044, .lfsr1), (0x048, .lfsr2), (0x050, .wsel), (0x054, .wdata), (0x058, .wlen)]

/-- The register at a byte offset: the map below 0x100, the context registers at 0x100 + 16·c for c < NCTX, none elsewhere
(rules R25, R27, R39). -/
def hostReg (p : Params) (off : Nat) : Option HostReg :=
  if off < 0x100 then registerMap.lookup off
  else
    let c := (off - 0x100) / 16
    if c < p.nctx then
      match (off - 0x100) % 16 with
      | 0 => some (.cxp0 c)
      | 4 => some (.cxp1 c)
      | 8 => some (.cxst c)
      | _ => none
    else none

/-- The ID register: ASCII "NPC" followed by version 0x01 (rules R2, R27). -/
def idWord : Word := 0x4E504301

/-- A number in a field of a register word, at bit `lo` (rule R27). -/
def numberAt (lo x : Nat) : Word := BitVec.ofNat 32 x <<< lo

/-- Two 16-bit halves of a register word. -/
def halves (hi lo : Word) : Word := (hi <<< 16) ||| lo

/-- What a register holds, as a read returns it (rules R25 to R31, R40, R44, R46). CMD reads 0. -/
def State.regValue (s : State) (r : HostReg) : Word :=
  match r with
  | .id => idWord
  | .cfg0 => numberAt 0 s.cfg.dmax ||| numberAt 16 s.cfg.pmax
  | .cfg1 => numberAt 0 s.cfg.nv ||| numberAt 8 s.cfg.nm ||| numberAt 16 s.cfg.ns ||| numberAt 24 s.cfg.nt
  | .cfg2 => numberAt 0 s.cfg.nctx ||| numberAt 16 s.cfg.rmax
  | .cfg3 => numberAt 0 s.cfg.vcap
  | .ctrl => s.ctrlWord
  | .status => s.statusWord
  | .err => numberAt 0 (errorNumber s.err)
  | .errcmd => s.errCmd
  | .cmd => 0
  | .arg => halves (s.argB.setWidth 32) (s.argA.setWidth 32)
  | .result => s.result
  | .parties => s.parties.setWidth 32
  | .vptr => numberAt 0 s.vptr
  | .retries => s.retries
  | .lfsr0 => s.lfsr.s.extractLsb' 0 32
  | .lfsr1 => s.lfsr.s.extractLsb' 32 32
  | .lfsr2 => (s.lfsr.s.extractLsb' 64 16).setWidth 32 ||| flagBit 31 s.lfsr.init
  | .wsel => s.wsel
  | .wdata => s.readWdata
  | .wlen => s.readWlen
  | .cxp0 c => halves ((s.cx.getD c .empty).par.ks.setWidth 32) ((s.cx.getD c .empty).par.bs.setWidth 32)
  | .cxp1 c => halves ((s.cx.getD c .empty).par.r.setWidth 32) ((s.cx.getD c .empty).par.m.setWidth 32)
  | .cxst c => flagBit 0 (s.cx.getD c .empty).inst ||| flagBit 1 (s.cx.getD c .empty).keyed

/-- The registers that still return their values in the reset-clearing phase (rule R51). -/
def HostReg.readableWhileClearing : HostReg → Bool
  | .id | .cfg0 | .cfg1 | .cfg2 | .cfg3 | .status => true
  | _ => false

/-- The registers whose reads are unspecified while a command is in flight (rule R50). -/
def HostReg.unspecifiedWhileRunning : HostReg → Bool
  | .wdata | .wlen | .lfsr0 | .lfsr1 | .lfsr2 | .retries => true
  | _ => false

/-- The output latch takes the value of a read. -/
def State.putRdata (s : State) (x : Word) : State := { s with rdata := x }

/-- A host read of a register, or of an offset that names none (rules R39, R50, R51). -/
def State.readReg (s : State) (r : Option HostReg) : State :=
  match r with
  | none => s.putRdata 0
  | some r =>
    match s.phase with
    | .idle => s.putRdata (s.regValue r)
    | .clearing => s.putRdata (if r.readableWhileClearing then s.regValue r else 0)
    | .running _ =>
      if r.unspecifiedWhileRunning then { s.putRdata (Config.busyRead s.freeReads) with freeReads := s.freeReads + 1 }
      else s.putRdata (s.regValue r)

/-- A CMD write with BUSY = 0 (rule R71): accepted when no error is recorded, else ignored with DROP set. -/
def State.writeCmd (s : State) (x : Word) : State := if s.err.isSome then s.setDrop else s.accept x

/-- A write of CXP0 or CXP1 clears INST and KEYED of the context (rules R25, R166). -/
def State.writeCxp (s : State) (c : Nat) (par : CxParams) : State :=
  { s with cx := s.cx.set c { s.cx.getD c .empty with par := par, inst := false, keyed := false } }

/-- A host write of a register with BUSY = 0 (rules R25, R27, R31, R40, R41). Writes to a read-only register are ignored. -/
def State.writeReg (s : State) (r : HostReg) (x : Word) : State :=
  match r with
  | .ctrl => s.writeCtrl x
  | .status => s.writeStatus x
  | .cmd => s.writeCmd x
  | .arg => { s with argA := x.extractLsb' 0 11, argB := x.extractLsb' 16 11 }
  | .parties => { s with parties := x.extractLsb' 0 8 }
  | .wsel => { s with wsel := x }
  | .wdata => s.writeWdata x
  | .wlen => s.writeWlen x
  | .cxp0 c => s.writeCxp c { (s.cx.getD c .empty).par with bs := x.extractLsb' 0 11, ks := x.extractLsb' 16 11 }
  | .cxp1 c => s.writeCxp c { (s.cx.getD c .empty).par with m := x.extractLsb' 0 10, r := x.extractLsb' 16 10 }
  | .id | .cfg0 | .cfg1 | .cfg2 | .cfg3 | .err | .errcmd | .result | .vptr | .retries | .lfsr0 | .lfsr1 | .lfsr2
  | .cxst _ => s

/-- The registers a host can write, CTRL and STATUS apart: a write to one of them while a command is in flight is ignored
and sets DROP, where a write to a read-only register never sets DROP (rules R40, R50, R163; DEDUCED, log entry 9). -/
def HostReg.droppedWhileRunning : HostReg → Bool
  | .cmd | .arg | .parties | .wsel | .wdata | .wlen | .cxp0 _ | .cxp1 _ => true
  | _ => false

/-- A host write to a register, or to an offset that names none, in every phase (rules R39, R50, R51, R71; log
entry 20). -/
def State.writeHost (s : State) (r : Option HostReg) (x : Word) : State :=
  match r with
  | none => s
  | some r =>
    match s.phase with
    | .idle => s.writeReg r x
    | .clearing => s
    | .running _ =>
      match r with
      | .ctrl => s.writeCtrl x
      | .status => s.writeStatus x
      | r => if r.droppedWhileRunning then s.setDrop else s

/-- The only form of a host access (rule R38): one 32-bit word at an offset that is a multiple of 4 below 0x1000. -/
def accessForm (addr size : Nat) : Bool := decide (size = 4) && decide (addr % 4 = 0) && decide (addr < 0x1000)

/-- `MemRead(addr, size)` (rules R11, R38). -/
def State.memRead (s : State) (addr size : Nat) : Host.Outcome State Fault Refusal :=
  if accessForm addr size then .next (s.readReg (hostReg s.cfg addr)) else .refused .hostAccessForm

/-- `MemWrite(addr, size, x)` (rules R11, R38). -/
def State.memWrite (s : State) (addr size : Nat) (x : Word) : Host.Outcome State Fault Refusal :=
  if accessForm addr size then .next (s.writeHost (hostReg s.cfg addr) x) else .refused .hostAccessForm

end Sys2Proof.Machine
end

