-- ==== Sys2Proof/Machine/Gf2.lean ====
section
/-! DEFINITION. GF(2) matrix algebra on values: the matrix-vector product (rules R9, R79), rank (rule R80) and inversion
(rule R83), each written as the spec's own loop. -/

namespace Sys2Proof.Machine

/-- `A·v`: bit `r` is the parity of the AND of row `r` and `v` (rules R9, R79). -/
def matVecMul (A : Mat) (v : Vec) : Vec := A.row.map fun row => parity (vecAnd row v)

/-- `I_n` (rule R9). -/
def identityRows (n : Nat) : List Vec := (List.range n).map fun r => (List.range n).map fun j => decide (r = j)

/-- "the least q with p <= q < R and W[q][col] = 1" (rules R80, R83). -/
def findPivot (W : List Vec) (col p : Nat) : Option Nat :=
  (List.range W.length).find? fun q => decide (p ≤ q) && bitAt (W.getD q []) col

/-- "swap W[p] and W[q]". -/
def swapRows (W : List Vec) (p q : Nat) : List Vec := (W.set p (W.getD q [])).set q (W.getD p [])

/-- "W[i] <- W[i] ⊕ W[p]" for every `i` that `sel` selects: `X` holds the row that is added, and `W` the rows that are
changed. -/
def addRowWhere (sel : Nat → Bool) (p : Nat) (X W : List Vec) : List Vec :=
  W.zipIdx.map fun w => if sel w.2 then vecXor w.1 (X.getD p []) else w.1

/-- One column of the elimination of rule R80, on the working rows `W` and the pivot row `p`. -/
def rankStep (R : Nat) (st : List Vec × Nat) (col : Nat) : List Vec × Nat :=
  if st.2 = R then st
  else match findPivot st.1 col st.2 with
    | none => st
    | some q =>
      let W := swapRows st.1 st.2 q
      (addRowWhere (fun i => decide (st.2 < i) && bitAt (W.getD i []) col) st.2 W W, st.2 + 1)

/-- `rank(A)` (rule R80): columns from the most significant one down to 0. -/
def matRank (A : Mat) : Nat := ((List.range A.cols).reverse.foldl (rankStep A.rows) (A.row, 0)).2

/-- One column of the forward elimination of rule R83, on the working rows `W` and the companion rows `E`. A column with no
pivot does not occur when the rank is full. -/
def forwardStep (st : List Vec × List Vec) (col : Nat) : List Vec × List Vec :=
  match findPivot st.1 col col with
  | none => st
  | some q =>
    let W := swapRows st.1 col q
    let E := swapRows st.2 col q
    let sel := fun i => decide (col < i) && bitAt (W.getD i []) col
    (addRowWhere sel col W W, addRowWhere sel col E E)

/-- One column of the back-substitution of rule R83. -/
def backStep (st : List Vec × List Vec) (col : Nat) : List Vec × List Vec :=
  let sel := fun i => decide (i < col) && bitAt (st.1.getD i []) col
  (addRowWhere sel col st.1 st.1, addRowWhere sel col st.2 st.2)

/-- `inv(A)` for A square of full rank (rule R83): forward elimination from column 0 up, back-substitution from the last
column down. -/
def matInv (A : Mat) : Mat :=
  let fwd := (List.range A.rows).foldl forwardStep (A.row, identityRows A.rows)
  let back := (List.range A.rows).reverse.foldl backStep fwd
  { rows := A.rows, cols := A.rows, row := back.2 }

end Sys2Proof.Machine
end

