-- ==== Sys2Proof/WellFormed.lean ====
section
/-! DEFINITION. When a command is well formed for a configuration: every register field indexes an existing register of the
file that rule R61 names (rule R63). -/

namespace Sys2Proof

/-- How many registers (or contexts) a file has (rule R63). -/
def RegFile.size (p : Params) : RegFile → Nat
  | .v => p.nv
  | .m => p.nm
  | .s => p.ns
  | .t => p.nt
  | .ctx => p.nctx

/-- The file of LXRD's destination: M for SEL 0 to 2, V for SEL 3 to 5 (rules R61, R112). -/
def LxrdSel.destFile : LxrdSel → RegFile
  | .lin | .invlin | .keym => .m
  | .rc | .rk | .mkey => .v

/-- The register fields of a command with the file each one indexes: the index columns of rule R61. -/
def Instr.regFields : Instr → List (RegFile × RegIdx)
  | .nop => []
  | .vxor d a b => [(.v, d), (.v, a), (.v, b)]
  | .vand d a b => [(.v, d), (.v, a), (.v, b)]
  | .mvmul d a b => [(.v, d), (.m, a), (.v, b)]
  | .rank a => [(.m, a)]
  | .minv d a => [(.m, d), (.m, a)]
  | .graw d _ => [(.v, d)]
  | .gss d _ => [(.v, d)]
  | .gmat d => [(.m, d)]
  | .linst c => [(.ctx, c)]
  | .lkey c k => [(.ctx, c), (.v, k)]
  | .lenc d a c => [(.v, d), (.v, a), (.ctx, c)]
  | .ldec d a c => [(.v, d), (.v, a), (.ctx, c)]
  | .lsub d a c => [(.v, d), (.v, a), (.ctx, c)]
  | .lisub d a c => [(.v, d), (.v, a), (.ctx, c)]
  | .lxrd d c sel => [(sel.destFile, d), (.ctx, c)]
  | .share d a _ => [(.s, d), (.v, a)]
  | .recon d a _ => [(.v, d), (.s, a)]
  | .tgen d => [(.t, d)]
  | .gateAnd d x y t => [(.s, d), (.s, x), (.s, y), (.t, t)]
  | .gateOr d x y t => [(.s, d), (.s, x), (.s, y), (.t, t)]
  | .gateXor d x y => [(.s, d), (.s, x), (.s, y)]
  | .gateNot d x => [(.s, d), (.s, x)]
  | .gateId d x => [(.s, d), (.s, x)]
  | .vclr => []

/-- Rule R63 for a whole command: V < NV, M < NM, S < NS, T < NT, ctx < NCTX. -/
def Instr.wellFormed (p : Params) (i : Instr) : Bool :=
  i.regFields.all fun f => decide (f.2.toNat < f.1.size p)

end Sys2Proof
end

