-- ==== Sys2Proof/Machine/Operands.lean ====
section
/-! DEFINITION. The operand forms: the index check of every register field (rule R63), the sampled operands (rules R60, R72),
and the checks that several commands share (rules R18, R20, R118, R140). -/

namespace Sys2Proof.Machine

/-- A vector register index is inside V (rule R63). -/
def State.okV (s : State) (i : RegIdx) : Bool := decide (i.toNat < s.cfg.nv)
/-- A matrix register index is inside M (rule R63). -/
def State.okM (s : State) (i : RegIdx) : Bool := decide (i.toNat < s.cfg.nm)
/-- A share register index is inside S (rule R63). -/
def State.okS (s : State) (i : RegIdx) : Bool := decide (i.toNat < s.cfg.ns)
/-- A triple register index is inside T (rule R63). -/
def State.okT (s : State) (i : RegIdx) : Bool := decide (i.toNat < s.cfg.nt)
/-- A context index is below NCTX (rule R63). -/
def State.okC (s : State) (i : RegIdx) : Bool := decide (i.toNat < s.cfg.nctx)

/-- The party count `n` sampled at acceptance (rules R11, R72). -/
def State.partyCount (s : State) : Nat := s.job.n.toNat

/-- `2 <= n <= PMAX` (rule R118). -/
def State.okParties (s : State) : Bool := decide (2 ≤ s.partyCount) && decide (s.partyCount ≤ s.cfg.pmax)

/-- Share register `S[i]` is complete for the sampled party count (rule R18). -/
def State.shareComplete (s : State) (i : RegIdx) : Bool := decide ((s.sreg i).cnt = s.partyCount)

/-- Triple register `T[i]` is usable for the sampled party count (rule R20). -/
def State.usable (s : State) (i : RegIdx) : Bool := (s.treg i).valid && decide ((s.treg i).cnt = s.partyCount)

/-- The parameters of context `c` sampled at acceptance (rules R72, R96). -/
def State.params (s : State) (c : RegIdx) : CxParams := s.job.cxp.getD c.toNat .zero

/-- blockSize of context `c`, as sampled. -/
def State.bs (s : State) (c : RegIdx) : Nat := (s.params c).bs.toNat
/-- keySize of context `c`, as sampled. -/
def State.ks (s : State) (c : RegIdx) : Nat := (s.params c).ks.toNat
/-- numSboxes of context `c`, as sampled. -/
def State.sboxes (s : State) (c : RegIdx) : Nat := (s.params c).m.toNat
/-- rounds of context `c`, as sampled. -/
def State.rounds (s : State) (c : RegIdx) : Nat := (s.params c).r.toNat

end Sys2Proof.Machine
end

