-- ==== Sys2Proof/Machine/Algebra.lean ====
section
/-! DEFINITION. The GF(2) algebra commands (rules R77 to R85). -/

namespace Sys2Proof.Machine

/-- VXOR (rule R77). -/
def execVxor (d a b : RegIdx) (s : State) : Host.Outcome State Fault Refusal :=
  complete s <| checked
    [(s.okV d && s.okV a && s.okV b, .illegalCommand),
     (decide ((s.vec a).length = (s.vec b).length), .invalidParameters)]
    (.ok (s.putVec d (vecXor (s.vec a) (s.vec b))))

/-- VAND (rule R78). -/
def execVand (d a b : RegIdx) (s : State) : Host.Outcome State Fault Refusal :=
  complete s <| checked
    [(s.okV d && s.okV a && s.okV b, .illegalCommand),
     (decide ((s.vec a).length = (s.vec b).length), .invalidParameters)]
    (.ok (s.putVec d (vecAnd (s.vec a) (s.vec b))))

/-- MVMUL (rule R79). -/
def execMvmul (d a b : RegIdx) (s : State) : Host.Outcome State Fault Refusal :=
  complete s <| checked
    [(s.okV d && s.okM a && s.okV b, .illegalCommand),
     (decide ((s.vec b).length = (s.mat a).cols), .invalidParameters)]
    (.ok (s.putVec d (matVecMul (s.mat a) (s.vec b))))

/-- RANK (rule R82): `RESULT <- zext_32(rank(M[a]))`. -/
def execRank (a : RegIdx) (s : State) : Host.Outcome State Fault Refusal :=
  complete s <| checked
    [(s.okM a, .illegalCommand)]
    (.ok (s.putResult (BitVec.ofNat 32 (matRank (s.mat a)))))

/-- MINV (rule R85). -/
def execMinv (d a : RegIdx) (s : State) : Host.Outcome State Fault Refusal :=
  complete s <| checked
    [(s.okM d && s.okM a, .illegalCommand),
     (decide ((s.mat a).rows = (s.mat a).cols), .singularMatrix),
     (decide ((s.mat a).rows ≤ matRank (s.mat a)), .singularMatrix)]
    (.ok (s.putMat d (matInv (s.mat a))))

end Sys2Proof.Machine
end

