-- ==== Sys2Proof/Machine/Control.lean ====
section
/-! DEFINITION. The command with no operation (rule R75). -/

namespace Sys2Proof.Machine

/-- NOP (rule R75): "nothing"; the completion sets DONE. -/
def execNop (s : State) : Host.Outcome State Fault Refusal := complete s (.ok s)

end Sys2Proof.Machine
end

