-- ==== Sys2Proof/Machine/Sharing.lean ====
section
/-! DEFINITION. Secret sharing and multiplication triples (rules R113 to R121). The bits that `trng()` returns are those the
TRNG has delivered to the command in flight, in the order it delivered them; a command completes only when it has all the
bits it needs (rule R113). -/

namespace Sys2Proof.Machine

/-- `share(s, n)` (rule R115) with the drawn bits `b = [b_2, .., b_n]`: `z_1 = s ⊕ b_2 ⊕ ... ⊕ b_n`, `z_i = b_i`. -/
def shareOf (secret : Bool) (b : List Bool) : Vec := xor secret (parity b) :: b

/-- `reconstruct(z, n)` (rule R116). -/
def reconstruct (z : Vec) : Bool := parity z

/-- SHARE's checks (rule R119). -/
def shareChecks (d a : RegIdx) (k : Imm) (s : State) : List (Bool × CmdError) :=
  [(s.okS d && s.okV a, .illegalCommand),
   (s.okParties, .invalidParameters),
   (decide (k.toNat < (s.vec a).length), .invalidParameters)]

/-- TGEN's checks (rule R121). -/
def tgenChecks (d : RegIdx) (s : State) : List (Bool × CmdError) :=
  [(s.okT d, .illegalCommand),
   (s.okParties, .invalidParameters)]

/-- How many true-random bits a command draws in all: `n - 1` for SHARE (rule R115), `2 + 3·(n - 1)` for TGEN (rule R117), none
for any other (rules R113, R114), and none when a check of the command fails (rule R144). -/
def trngNeed (i : Instr) (s : State) : Nat :=
  match i with
  | .share d a k => if (firstFail (shareChecks d a k s)).isNone then s.partyCount - 1 else 0
  | .tgen d => if (firstFail (tgenChecks d s)).isNone then 2 + 3 * (s.partyCount - 1) else 0
  | .nop | .vxor _ _ _ | .vand _ _ _ | .mvmul _ _ _ | .rank _ | .minv _ _ | .graw _ _ | .gss _ _ | .gmat _
  | .linst _ | .lkey _ _ | .lenc _ _ _ | .ldec _ _ _ | .lsub _ _ _ | .lisub _ _ _ | .lxrd _ _ _ | .recon _ _ _
  | .gateAnd _ _ _ _ | .gateOr _ _ _ _ | .gateXor _ _ _ | .gateNot _ _ | .gateId _ _ | .vclr => 0

/-- SHARE (rule R119). -/
def execShare (d a : RegIdx) (k : Imm) (s : State) : Host.Outcome State Fault Refusal :=
  let n := s.partyCount
  complete s <| checked (shareChecks d a k s)
    (if s.job.trngBits.length < n - 1 then .wait
     else .ok (s.putShare d n (shareOf (bitAt (s.vec a) k.toNat) (s.job.trngBits.take (n - 1)))))

/-- RECON (rule R120): the bit index before the count, and only bit `k` of `V[d]` changes. -/
def execRecon (d a : RegIdx) (k : Imm) (s : State) : Host.Outcome State Fault Refusal :=
  complete s <| checked
    [(s.okV d && s.okS a, .illegalCommand),
     (s.okParties, .invalidParameters),
     (decide (k.toNat < (s.vreg d).len), .invalidParameters),
     (s.shareComplete a, .tripleExhausted)]
    (.ok (s.putVecBit d k.toNat (reconstruct (s.share s.partyCount a))))

/-- `generateTriple(n)` (rule R117) from the `2 + 3·(n - 1)` bits drawn: a, b, then the bits of share(a), share(b), share(c). -/
def tripleOf (n : Nat) (bits : List Bool) : TReg :=
  let a := bitAt bits 0
  let b := bitAt bits 1
  let r := bits.drop 2
  { valid := true, cnt := n
    a := partyStore (shareOf a (r.take (n - 1)))
    b := partyStore (shareOf b ((r.drop (n - 1)).take (n - 1)))
    c := partyStore (shareOf (a && b) ((r.drop (2 * (n - 1))).take (n - 1))) }

/-- TGEN (rule R121). -/
def execTgen (d : RegIdx) (s : State) : Host.Outcome State Fault Refusal :=
  let n := s.partyCount
  complete s <| checked (tgenChecks d s)
    (if s.job.trngBits.length < 2 + 3 * (n - 1) then .wait
     else .ok (s.putTriple d (tripleOf n s.job.trngBits)))

end Sys2Proof.Machine
end

