-- ==== Sys2Proof/Machine/Gates.lean ====
section
/-! DEFINITION. The gate emulator (rules R122 to R137): the gate functions on the parties' shares, the view records, and the
commands GATE.AND, GATE.OR, GATE.XOR, GATE.NOT, GATE.ID and VCLR. -/

namespace Sys2Proof.Machine

/-- `z_1 <- z_1 ⊕ b`: the distinguished party is party 1 (rules R12, R127). -/
def flipFirst (b : Bool) : Vec → Vec
  | [] => []
  | z :: rest => xor z b :: rest

/-- `AND(x, y, (a, b, c))`'s output shares (rule R127): `d` and `e` are the opened values, and the correction `d ∧ e` goes to
party 1 only. -/
def gateAndOf (x y a b c : Vec) : Vec :=
  let d := parity (vecXor x a)
  let e := parity (vecXor y b)
  flipFirst (d && e) (vecXor c (vecXor (x.map (· && e)) (y.map (· && d))))

/-- `OR(x, y, t)`'s output shares (rule R128): `w_i ⊕ x_i ⊕ y_i`. -/
def gateOrOf (x y a b c : Vec) : Vec := vecXor (vecXor (gateAndOf x y a b c) x) y

/-- `NOT(x)` (rule R125): party 1's share only, or every share with NOTALL = 1. -/
def gateNotOf (notAll : Bool) (x : Vec) : Vec := if notAll then x.map (!·) else flipFirst true x

/-- Party `p + 1`'s view record (rule R129): `a_p, b_p, c_p, x_p, y_p, d_1 .. d_n, e_1 .. e_n`. -/
def viewRecord (x y a b c : Vec) (p : Nat) : Vec :=
  [bitAt a p, bitAt b p, bitAt c p, bitAt x p, bitAt y p] ++ vecXor x a ++ vecXor y b

/-- `append_views` (rule R129): parties 1 to `n` append their record; the other parties' buffers are not written, and their
bits at the record's places read 0 (log entry 11). `VPTR <- VPTR + 5 + 2n`. -/
def State.appendViews (s : State) (n : Nat) (x y a b c : Vec) : State :=
  s.putViews
    (s.views.zipIdx.map fun v =>
      v.1 ++ (if v.2 < n then viewRecord x y a b c v.2 else List.replicate (5 + 2 * n) false))
    (s.vptr + 5 + 2 * n)

/-- The triple's share arrays for `n` parties (rule R19). -/
def State.tripleA (s : State) (n : Nat) (t : RegIdx) : Vec := partyValue n (s.treg t).a
/-- The triple's share arrays for `n` parties (rule R19). -/
def State.tripleB (s : State) (n : Nat) (t : RegIdx) : Vec := partyValue n (s.treg t).b
/-- The triple's share arrays for `n` parties (rule R19). -/
def State.tripleC (s : State) (n : Nat) (t : RegIdx) : Vec := partyValue n (s.treg t).c

/-- The checks of GATE.AND and GATE.OR (rule R123). -/
def tripleGateChecks (d x y t : RegIdx) (s : State) : List (Bool × CmdError) :=
  [(s.okS d && s.okS x && s.okS y && s.okT t, .illegalCommand),
   (s.okParties, .invalidParameters),
   (s.shareComplete x, .tripleExhausted),
   (s.shareComplete y, .tripleExhausted),
   (s.usable t, .tripleExhausted),
   (decide (s.vptr + 5 + 2 * s.partyCount ≤ s.cfg.vcap), .viewOverflow)]

/-- What GATE.AND and GATE.OR do with the output shares `z` (rules R132, R133): append the views, use up the triple, write
the output. The view records are made of the inputs as they stand before the gate. -/
def tripleGate (d x y t : RegIdx) (z : Vec) (s : State) : State :=
  let n := s.partyCount
  let withViews := s.appendViews n (s.share n x) (s.share n y) (s.tripleA n t) (s.tripleB n t) (s.tripleC n t)
  (withViews.useTriple t).putShare d n z

/-- GATE.AND (rule R132). -/
def execGateAnd (d x y t : RegIdx) (s : State) : Host.Outcome State Fault Refusal :=
  let n := s.partyCount
  complete s <| checked (tripleGateChecks d x y t s)
    (.ok (tripleGate d x y t
      (gateAndOf (s.share n x) (s.share n y) (s.tripleA n t) (s.tripleB n t) (s.tripleC n t)) s))

/-- GATE.OR (rule R133). -/
def execGateOr (d x y t : RegIdx) (s : State) : Host.Outcome State Fault Refusal :=
  let n := s.partyCount
  complete s <| checked (tripleGateChecks d x y t s)
    (.ok (tripleGate d x y t
      (gateOrOf (s.share n x) (s.share n y) (s.tripleA n t) (s.tripleB n t) (s.tripleC n t)) s))

/-- GATE.XOR (rules R124, R134). -/
def execGateXor (d x y : RegIdx) (s : State) : Host.Outcome State Fault Refusal :=
  let n := s.partyCount
  complete s <| checked
    [(s.okS d && s.okS x && s.okS y, .illegalCommand),
     (s.okParties, .invalidParameters),
     (s.shareComplete x, .tripleExhausted),
     (s.shareComplete y, .tripleExhausted)]
    (.ok (s.putShare d n (vecXor (s.share n x) (s.share n y))))

/-- GATE.NOT (rules R125, R135), with NOTALL as sampled. -/
def execGateNot (d x : RegIdx) (s : State) : Host.Outcome State Fault Refusal :=
  let n := s.partyCount
  complete s <| checked
    [(s.okS d && s.okS x, .illegalCommand),
     (s.okParties, .invalidParameters),
     (s.shareComplete x, .tripleExhausted)]
    (.ok (s.putShare d n (gateNotOf s.job.notAll (s.share n x))))

/-- GATE.ID (rules R126, R136). -/
def execGateId (d x : RegIdx) (s : State) : Host.Outcome State Fault Refusal :=
  let n := s.partyCount
  complete s <| checked
    [(s.okS d && s.okS x, .illegalCommand),
     (s.okParties, .invalidParameters),
     (s.shareComplete x, .tripleExhausted)]
    (.ok (s.putShare d n (s.share n x)))

/-- VCLR (rule R137). -/
def execVclr (s : State) : Host.Outcome State Fault Refusal :=
  complete s (.ok (s.putViews (List.replicate s.cfg.pmax []) 0))

end Sys2Proof.Machine
end

