-- ==== Sys2Proof/Machine/Lfsr.lean ====
section
/-! DEFINITION. The deterministic bit generator (rules R86 to R91): the raw step, the self-shrinking rule, the lazy warm-up and
the draws of vectors and matrices. -/

namespace Sys2Proof.Machine

/-- `t`, the feedback bit that a raw step returns (rule R86). -/
def lfsrFeedback (s : BitVec 80) : Bool :=
  xor (s.getLsbD 0) (xor (s.getLsbD 13) (xor (s.getLsbD 23) (xor (s.getLsbD 38) (xor (s.getLsbD 51) (s.getLsbD 62)))))

/-- The register after a raw step: `S'[j] = S[j+1]` for `j < 79` and `S'[79] = t` (rule R86). -/
def lfsrStep (s : BitVec 80) : BitVec 80 := BitVec.cons (lfsrFeedback s) (s.extractLsb' 1 79)

/-- The register after `k` raw steps. -/
def lfsrSteps : Nat → BitVec 80 → BitVec 80
  | 0, s => s
  | k + 1, s => lfsrSteps k (lfsrStep s)

/-- `ensure_init()`: the warm-up of 160 raw steps, once (rule R88). -/
def ensureInit (l : Lfsr) : Lfsr := if l.init then l else { s := lfsrSteps 160 l.s, init := true }

/-- A bound that no ending loop of the generator reaches: one more than the number of values of the 80-bit register. A loop
that has not ended after so many rounds has seen a register value twice and never ends (log entry 8), so this bound is no
retry cap (rule R99). -/
def cycleBound : Nat := 2 ^ 80 + 1

/-- `ss_bit()` (rule R87): pairs of raw bits, the choice first, until a choice is 1. `none` when `fuel` rounds do not end
it. -/
def ssBit : Nat → BitVec 80 → Option (Bool × BitVec 80)
  | 0, _ => none
  | fuel + 1, s =>
    let s1 := lfsrStep s
    let s2 := lfsrStep s1
    if lfsrFeedback s then some (lfsrFeedback s1, s2) else ssBit fuel s2

/-- `lfsr_raw()` (rule R89). -/
def lfsrRaw (l : Lfsr) : Bool × Lfsr :=
  let l1 := ensureInit l
  (lfsrFeedback l1.s, { l1 with s := lfsrStep l1.s })

/-- `lfsr_ss()` (rule R89); `none` when the self-shrinking loop never ends, which only the all-zero register does
(rule R95 item 4). -/
def lfsrSs (l : Lfsr) : Option (Bool × Lfsr) :=
  let l1 := ensureInit l
  match ssBit cycleBound l1.s with
  | none => none
  | some (b, s) => some (b, { l1 with s := s })

/-- `L` raw bits, index 0 drawn first (rules R91, R92). -/
def drawRaw : Nat → Lfsr → Vec × Lfsr
  | 0, l => ([], l)
  | k + 1, l =>
    let (b, l1) := lfsrRaw l
    let (v, l2) := drawRaw k l1
    (b :: v, l2)

/-- `draw_vector(L)`: `L` self-shrunk bits, index 0 drawn first (rules R91, R93, R98). -/
def drawSs : Nat → Lfsr → Option (Vec × Lfsr)
  | 0, l => some ([], l)
  | k + 1, l =>
    match lfsrSs l with
    | none => none
    | some (b, l1) =>
      match drawSs k l1 with
      | none => none
      | some (v, l2) => some (b :: v, l2)

/-- `k` vectors of length `L`, one after the other (rules R91, R98). -/
def drawVectors (L : Nat) : Nat → Lfsr → Option (List Vec × Lfsr)
  | 0, l => some ([], l)
  | k + 1, l =>
    match drawSs L l with
    | none => none
    | some (v, l1) =>
      match drawVectors L k l1 with
      | none => none
      | some (vs, l2) => some (v :: vs, l2)

/-- `draw_matrix(R, C)`: row 0 first and column 0 first within a row (rules R91, R94, R98). -/
def drawMatrix (R C : Nat) (l : Lfsr) : Option (Mat × Lfsr) :=
  match drawVectors C R l with
  | none => none
  | some (rows, l1) => some ({ rows := R, cols := C, row := rows }, l1)

end Sys2Proof.Machine
end

