-- ==== Sys2Proof/Machine/Generator.lean ====
section
/-! DEFINITION. The bit generator commands (rules R92 to R94). -/

namespace Sys2Proof.Machine

/-- GRAW (rule R92): `L = 0` draws nothing and runs no warm-up. -/
def execGraw (d : RegIdx) (len : Imm) (s : State) : Host.Outcome State Fault Refusal :=
  complete s <| checked
    [(s.okV d, .illegalCommand),
     (decide (len.toNat ≤ s.cfg.dmax), .invalidParameters)]
    (let (v, l) := drawRaw len.toNat s.lfsr
     .ok ((s.putVec d v).putLfsr l))

/-- GSS (rule R93). The draw of a self-shrunk bit ends in every state but the all-zero register's (rule R95 item 4); there
the engine stays BUSY. -/
def execGss (d : RegIdx) (len : Imm) (s : State) : Host.Outcome State Fault Refusal :=
  complete s <| checked
    [(s.okV d, .illegalCommand),
     (decide (len.toNat ≤ s.cfg.dmax), .invalidParameters)]
    (match drawSs len.toNat s.lfsr with
     | none => .wait
     | some (v, l) => .ok ((s.putVec d v).putLfsr l))

/-- GMAT (rule R94): ARG_A rows and ARG_B columns, as sampled. -/
def execGmat (d : RegIdx) (s : State) : Host.Outcome State Fault Refusal :=
  complete s <| checked
    [(s.okM d, .illegalCommand),
     (decide (s.job.argA.toNat ≤ s.cfg.dmax) && decide (s.job.argB.toNat ≤ s.cfg.dmax), .invalidParameters)]
    (match drawMatrix s.job.argA.toNat s.job.argB.toNat s.lfsr with
     | none => .wait
     | some (A, l) => .ok ((s.putMat d A).putLfsr l))

end Sys2Proof.Machine
end

