-- ==== Sys2Proof/Machine/Cipher.lean ====
section
/-! DEFINITION. The LowMC functions on values (rules R96 to R105): validity of the parameters, instantiation, the key schedule,
the substitution layer, encryption and decryption. -/

namespace Sys2Proof.Machine

/-- The parameters of a context are valid (rule R96). -/
def validParams (p : Params) (x : CxParams) : Bool :=
  decide (1 ≤ x.bs.toNat) && decide (x.bs.toNat ≤ p.dmax) && decide (1 ≤ x.ks.toNat) && decide (x.ks.toNat ≤ p.dmax) &&
  decide (3 * x.m.toNat ≤ x.bs.toNat) && decide (x.r.toNat ≤ p.rmax)

/-- `sat32(x + 1)` (rules R26, R98). -/
def sat32Succ (x : Nat) : Nat := min (x + 1) (2 ^ 32 - 1)

/-- Which ranks a linear layer of block size `bs` is kept for: "until rank == blockSize" (rule R98). -/
def fullRank (bs rank : Nat) : Bool := decide (rank = bs)

/-- Which ranks a key matrix is kept for: "if rank(K) >= min(bs, ks): break" (rule R98). -/
def keyRank (bs ks rank : Nat) : Bool := decide (min bs ks ≤ rank)

/-- The retry loop of rule R98: candidates of `R` rows and `C` columns are drawn until one has a rank that is kept; each
rejection is counted. `none` when `fuel` candidates do not end it, or a draw does not end. -/
def drawUntil (keep : Nat → Bool) (R C : Nat) : Nat → Nat → Lfsr → Option (Mat × Nat × Lfsr)
  | 0, _, _ => none
  | fuel + 1, rej, l =>
    match drawMatrix R C l with
    | none => none
    | some (A, l1) => if keep (matRank A) then some (A, rej, l1) else drawUntil keep R C fuel (sat32Succ rej) l1

/-- `k` accepted matrices, one after the other: a phase of rule R98. -/
def drawAccepted (keep : Nat → Bool) (R C : Nat) : Nat → Nat → Lfsr → Option (List Mat × Nat × Lfsr)
  | 0, rej, l => some ([], rej, l)
  | k + 1, rej, l =>
    match drawUntil keep R C cycleBound rej l with
    | none => none
    | some (A, rej1, l1) =>
      match drawAccepted keep R C k rej1 l1 with
      | none => none
      | some (As, rej2, l2) => some (A :: As, rej2, l2)

/-- `instantiate(c)` (rule R98) for a context with parameters `x`: the linear layers, then the round constants, then the key
matrices. It gives the context, the number of rejected candidates and the generator; `none` when a loop never ends
(rule R99). -/
def instantiate (x : CxParams) (l : Lfsr) : Option (Ctx × Nat × Lfsr) :=
  let bs := x.bs.toNat
  let ks := x.ks.toNat
  let r := x.r.toNat
  match drawAccepted (fullRank bs) bs bs r 0 l with
  | none => none
  | some (lin, rej1, l1) =>
    match drawVectors bs r l1 with
    | none => none
    | some (rc, l2) =>
      match drawAccepted (keyRank bs ks) bs ks (r + 1) rej1 l2 with
      | none => none
      | some (km, rej2, l3) =>
        some ({ par := x, inst := true, keyed := false, lin := lin, invlin := lin.map matInv, rc := rc, km := km,
                mkey := [], rk := [] }, rej2, l3)

/-- `setkey(c, k)` (rule R100): `RK[i] <- KM[i]·k` for `i = 0` to `r`. -/
def setKey (r : Nat) (k : Vec) (x : Ctx) : Ctx :=
  { x with mkey := k, keyed := true, rk := (List.range (r + 1)).map fun i => matVecMul (x.km.getD i .empty) k }

/-- `Sbox` (rule R101). -/
def sboxTable : List Nat := [0, 1, 3, 6, 7, 4, 5, 2]

/-- `invSbox` (rule R101). -/
def invSboxTable : List Nat := [0, 1, 7, 2, 5, 6, 3, 4]

/-- One group of three bits through a table (rule R102): `x <- c[3k] + 2·c[3k+1] + 4·c[3k+2]`, and the bits of `y`. -/
def sboxGroup (table : List Nat) (b0 b1 b2 : Bool) : Vec :=
  let y := table.getD (b0.toNat + 2 * b1.toNat + 4 * b2.toNat) 0
  [y.testBit 0, y.testBit 1, y.testBit 2]

/-- The substitution layer with `m` groups at the low end of the block; the bits above them pass unchanged (rule R102, "The
groups are independent, so the processing order does not change the result"). -/
def substitution (table : List Nat) : Nat → Vec → Vec
  | k + 1, b0 :: b1 :: b2 :: rest => sboxGroup table b0 b1 b2 ++ substitution table k rest
  | _, v => v

/-- `Substitute` (rule R102). -/
def substitute (m : Nat) (c : Vec) : Vec := substitution sboxTable m c

/-- `invSubstitute` (rule R102). -/
def invSubstitute (m : Nat) (c : Vec) : Vec := substitution invSboxTable m c

/-- Round `i` of `encrypt` (rule R103). -/
def encryptRound (m : Nat) (x : Ctx) (b : Vec) (i : Nat) : Vec :=
  vecXor (vecXor (matVecMul (x.lin.getD i .empty) (substitute m b)) (x.rc.getD i [])) (x.rk.getD (i + 1) [])

/-- `encrypt(c, p)` (rule R103). -/
def encrypt (m r : Nat) (x : Ctx) (p : Vec) : Vec :=
  (List.range r).foldl (encryptRound m x) (vecXor p (x.rk.getD 0 []))

/-- Round `i` of `decrypt` (rule R104). -/
def decryptRound (m : Nat) (x : Ctx) (b : Vec) (i : Nat) : Vec :=
  invSubstitute m (matVecMul (x.invlin.getD i .empty) (vecXor (vecXor b (x.rk.getD (i + 1) [])) (x.rc.getD i [])))

/-- `decrypt(c, y)` (rule R104): the rounds in reverse order. -/
def decrypt (m r : Nat) (x : Ctx) (y : Vec) : Vec :=
  vecXor ((List.range r).reverse.foldl (decryptRound m x) y) (x.rk.getD 0 [])

end Sys2Proof.Machine
end

