-- ==== Sys2Proof/Machine/Lowmc.lean ====
section
/-! DEFINITION. The LowMC commands (rules R106 to R112). -/

namespace Sys2Proof.Machine

/-- LINST (rule R106). When a retry loop never ends the command never completes (rules R73 (b), R99). The context's CXP
registers are not written: they already hold the sampled parameters (rule R49). -/
def execLinst (c : RegIdx) (s : State) : Host.Outcome State Fault Refusal :=
  complete s <| checked
    [(s.okC c, .illegalCommand),
     (validParams s.cfg (s.params c), .invalidParameters)]
    (match instantiate (s.params c) s.lfsr with
     | none => .wait
     | some (x, rej, l) =>
       .ok (((s.putCtx c { x with par := (s.ctx c).par }).putLfsr l).putRetries (BitVec.ofNat 32 rej)))

/-- LKEY (rule R107). -/
def execLkey (c k : RegIdx) (s : State) : Host.Outcome State Fault Refusal :=
  complete s <| checked
    [(s.okC c && s.okV k, .illegalCommand),
     ((s.ctx c).inst, .notReady),
     (decide ((s.vec k).length = s.ks c), .invalidParameters)]
    (.ok (s.putCtx c (setKey (s.rounds c) (s.vec k) (s.ctx c))))

/-- LENC (rule R108). -/
def execLenc (d a c : RegIdx) (s : State) : Host.Outcome State Fault Refusal :=
  complete s <| checked
    [(s.okV d && s.okV a && s.okC c, .illegalCommand),
     ((s.ctx c).keyed, .notReady),
     (decide ((s.vec a).length = s.bs c), .invalidParameters)]
    (.ok (s.putVec d (encrypt (s.sboxes c) (s.rounds c) (s.ctx c) (s.vec a))))

/-- LDEC (rule R109). -/
def execLdec (d a c : RegIdx) (s : State) : Host.Outcome State Fault Refusal :=
  complete s <| checked
    [(s.okV d && s.okV a && s.okC c, .illegalCommand),
     ((s.ctx c).keyed, .notReady),
     (decide ((s.vec a).length = s.bs c), .invalidParameters)]
    (.ok (s.putVec d (decrypt (s.sboxes c) (s.rounds c) (s.ctx c) (s.vec a))))

/-- LSUB (rule R110). -/
def execLsub (d a c : RegIdx) (s : State) : Host.Outcome State Fault Refusal :=
  complete s <| checked
    [(s.okV d && s.okV a && s.okC c, .illegalCommand),
     ((s.ctx c).inst, .notReady),
     (decide ((s.vec a).length = s.bs c), .invalidParameters)]
    (.ok (s.putVec d (substitute (s.sboxes c) (s.vec a))))

/-- LISUB (rule R111). -/
def execLisub (d a c : RegIdx) (s : State) : Host.Outcome State Fault Refusal :=
  complete s <| checked
    [(s.okV d && s.okV a && s.okC c, .illegalCommand),
     ((s.ctx c).inst, .notReady),
     (decide ((s.vec a).length = s.bs c), .invalidParameters)]
    (.ok (s.putVec d (invSubstitute (s.sboxes c) (s.vec a))))

/-- LXRD's round check: `i < r` for LIN, INVLIN and RC, `i <= r` for KM and RK, none for MKEY (rule R112). -/
def lxrdRoundOk (sel : LxrdSel) (i r : Nat) : Bool :=
  match sel with
  | .lin => decide (i < r)
  | .invlin => decide (i < r)
  | .keym => decide (i ≤ r)
  | .rc => decide (i < r)
  | .rk => decide (i ≤ r)
  | .mkey => true

/-- LXRD's checks in the order of rules R112 and R140. -/
def lxrdChecks (d c : RegIdx) (sel : LxrdSel) (s : State) : List (Bool × CmdError) :=
  [((match sel.destFile with
      | .m => s.okM d
      | _ => s.okV d) && s.okC c, .illegalCommand),
   ((s.ctx c).inst, .notReady),
   ((match sel with
      | .rk | .mkey => (s.ctx c).keyed
      | _ => true), .notReady),
   (lxrdRoundOk sel s.job.argA.toNat (s.rounds c), .invalidParameters)]

/-- LXRD (rule R112): the round index is ARG_A, as sampled. -/
def execLxrd (d c : RegIdx) (sel : LxrdSel) (s : State) : Host.Outcome State Fault Refusal :=
  let i := s.job.argA.toNat
  let x := s.ctx c
  complete s <| checked (lxrdChecks d c sel s)
    (match sel with
     | .lin => .ok (s.putMat d (x.lin.getD i .empty))
     | .invlin => .ok (s.putMat d (x.invlin.getD i .empty))
     | .keym => .ok (s.putMat d (x.km.getD i .empty))
     | .rc => .ok (s.putVec d (x.rc.getD i []))
     | .rk => .ok (s.putVec d (x.rk.getD i []))
     | .mkey => .ok (s.putVec d x.mkey))

end Sys2Proof.Machine
end

