-- ==== Sys2Proof/Machine/Dispatch.lean ====
section
/-! DEFINITION. The one map from commands to their meanings. -/

namespace Sys2Proof.Machine

def exec (i : Instr) (s : State) : Host.Outcome State Fault Refusal :=
  match i with
  | .nop => Sys2Proof.Machine.execNop s
  | .vxor d a b => Sys2Proof.Machine.execVxor d a b s
  | .vand d a b => Sys2Proof.Machine.execVand d a b s
  | .mvmul d a b => Sys2Proof.Machine.execMvmul d a b s
  | .rank a => Sys2Proof.Machine.execRank a s
  | .minv d a => Sys2Proof.Machine.execMinv d a s
  | .graw d len => Sys2Proof.Machine.execGraw d len s
  | .gss d len => Sys2Proof.Machine.execGss d len s
  | .gmat d => Sys2Proof.Machine.execGmat d s
  | .linst c => Sys2Proof.Machine.execLinst c s
  | .lkey c k => Sys2Proof.Machine.execLkey c k s
  | .lenc d a c => Sys2Proof.Machine.execLenc d a c s
  | .ldec d a c => Sys2Proof.Machine.execLdec d a c s
  | .lsub d a c => Sys2Proof.Machine.execLsub d a c s
  | .lisub d a c => Sys2Proof.Machine.execLisub d a c s
  | .lxrd d c sel => Sys2Proof.Machine.execLxrd d c sel s
  | .share d a k => Sys2Proof.Machine.execShare d a k s
  | .recon d a k => Sys2Proof.Machine.execRecon d a k s
  | .tgen d => Sys2Proof.Machine.execTgen d s
  | .gateAnd d x y t => Sys2Proof.Machine.execGateAnd d x y t s
  | .gateOr d x y t => Sys2Proof.Machine.execGateOr d x y t s
  | .gateXor d x y => Sys2Proof.Machine.execGateXor d x y s
  | .gateNot d x => Sys2Proof.Machine.execGateNot d x s
  | .gateId d x => Sys2Proof.Machine.execGateId d x s
  | .vclr => Sys2Proof.Machine.execVclr s

end Sys2Proof.Machine
end

