-- ==== Sys2Proof/Machine/Trng.lean ====
section
/-! DEFINITION. The true-random source at the block's ports (rules R37, R113): the request line, the delivery of a bit, and the
answer of a TRNG about which the environment's script says nothing. -/

namespace Sys2Proof.Machine

/-- How many bits the command in flight still waits for (rule R113). -/
def State.trngMissing (s : State) : Nat :=
  match s.phase with
  | .running j =>
    match decode j.word with
    | .ok i => trngNeed i s - j.trngBits.length
    | .error _ => 0
  | _ => 0

/-- The port `trng_req` (rules R37, R113): the command in flight still needs bits. -/
def State.trngReq (s : State) : Bool := decide (0 < s.trngMissing)

/-- The bits `bits` are delivered to the command in flight; each is used once (rules R34, R113). -/
def State.deliver (s : State) (bits : List Bool) : State :=
  match s.phase with
  | .running j =>
    { s with phase := .running { j with trngBits := j.trngBits ++ bits }, trngUsed := s.trngUsed + bits.length }
  | _ => s

/-- One cycle with trng_valid = 1: the bit is taken if it is requested (rule R113). That a bit which is not requested is
ignored is the model's choice (log entry 18). -/
def State.trngValid (s : State) (b : Bool) : State := if s.trngReq then s.deliver [b] else s

/-- The TRNG answers every outstanding request, with free bits (rule R113; log entry 4). That it answers at once, and before
an engine's turn with an empty script or under a host's wait, is the model's choice (log entry 24): rule R113 gives no rate
and lets it never answer. -/
def State.answerTrng (s : State) : State :=
  s.deliver ((List.range s.trngMissing).map fun k => Config.trngBit (s.trngUsed + k))

end Sys2Proof.Machine
end

