-- ==== Sys2Proof/Machine/Engine.lean ====
section
/-! DEFINITION. The engine's turn (rules R73, R158) and the events of the environment (rules R37, R52, R69, R157). -/

namespace Sys2Proof.Machine

/-- The completion step of the command in flight (rules R70, R73): a word that is no command fails with its code; a command
is executed, which checks its indices first. -/
def State.runCommand (s : State) (w : Word) : Host.Outcome State Fault Refusal :=
  match decode w with
  | .error e => .next (s.failCommand (decodeErrorCode e))
  | .ok i => exec i s

/-- The engine's turn (rules R73, R155, R158): an idle engine does nothing, the reset-clearing phase ends, and the command in
flight completes if its operation can finish. -/
def State.turnStep (s : State) : Host.Outcome State Fault Refusal :=
  match s.phase with
  | .idle => .next s
  | .clearing => .next s.endClearing
  | .running j => s.runCommand j.word

/-- The engine's turn with a TRNG that answers every outstanding request first (DESIGN CHOICE, log entry 24). -/
def State.autoStep (s : State) : Host.Outcome State Fault Refusal := s.answerTrng.turnStep

/-- The byte offset of STATUS (rule R27). -/
def statusOffset : Nat := 0x018

/-- One event of the environment. `poll`, the host's `wait` (rule R69), stands in the script until a read of STATUS returns
BUSY = 0; while BUSY = 1 the engine has its turns (rule R52). DESIGN CHOICE (log entry 24): the spec leaves open whether and
when the TRNG answers while the host waits (rules R73, R113, R156, R172); in a turn under `poll` it answers every outstanding
request at once, with free bits, even where `trng` events stand later in the script. A wait on a slow or silent TRNG is
written with `read` events of STATUS, `turn` and `trng` instead of `poll`. -/
def State.envStep (s : State) (e : EnvEvent) : Host.Outcome State Fault Refusal :=
  match e with
  | .read addr size => s.memRead addr size
  | .write addr size x => s.memWrite addr size x
  | .poll =>
    if s.busy then ({ s with env := .poll :: s.env } : State).autoStep else s.memRead statusOffset 4
  | .resetPin => .next s.hardReset
  | .trng b => .next (s.trngValid b)
  | .turn => s.turnStep

end Sys2Proof.Machine
end

