-- ==== Sys2Proof/Machine/Step.lean ====
section
/-! DEFINITION. One step of the machine: the next event of the environment's script, or the engine's own turn where the script
is empty (rules R42, R52, R73, R158, R171; log entry 2). -/

namespace Sys2Proof.Machine

/-- One step. -/
def step (s : State) : Host.Outcome State Fault Refusal :=
  match s.env with
  | [] => s.autoStep
  | e :: rest => ({ s with env := rest } : State).envStep e

/-- The state in which the command with the bits `w` is in flight and the next step is its completion: as after the host's
CMD write of that word, accepted with BUSY = 0 and no error recorded (rule R71), and with nothing in the script before the
engine's turn (log entry 2). -/
def State.withFetchWord (s : State) (nbits w : Nat) : State :=
  ({ s with err := none, env := [] } : State).accept (BitVec.ofNat 32 (w % 2 ^ nbits))

end Sys2Proof.Machine
end

