-- ==== Sys2Proof/Safety.lean ====
section
/-! DEFINITION. What claims about the machine are stated with: the invariants of rule R35, the end of a run (rule R76), and the
frames, which say what a completed command leaves unchanged (rules R15 to R21, R73). -/

namespace Sys2Proof.Machine

/-! ### The end of a run (rule R76) -/

/-- The engine is quiescent: BUSY = 0 and not in the reset-clearing phase (rule R76). -/
abbrev State.quiescent (s : State) : Prop := s.phase = .idle

/-- An access of the host program: a read, a write, or a `wait` (rule R69). -/
def EnvEvent.isHostAccess : EnvEvent → Bool
  | .read _ _ | .write _ _ _ | .poll => true
  | .resetPin | .trng _ | .turn => false

/-- The host program's last access has been performed (rule R76): the script holds none any more. What else stands in the
script is no part of the program. -/
abbrev State.accessesDone (s : State) : Prop := ∀ e ∈ s.env, e.isHostAccess = false

/-- The host program has ended (rule R76): its last access has been performed, and the engine is quiescent. -/
abbrev State.programEnd (s : State) : Prop := s.accessesDone ∧ s.quiescent

/-- A program's end with the premises rule R76 asks of a claim about it: ERR.CODE = 0, DROP = 0 and BUSY = 0. -/
abbrev State.cleanEnd (s : State) : Prop := s.programEnd ∧ s.err = none ∧ s.drop = false ∧ s.busy = false

/-! ### The invariants of rule R35 -/

/-- A matrix value of `R` rows and `C` columns: as many rows, each a vector of length `C` (rule R9). -/
abbrev Mat.Shape (R C : Nat) (A : Mat) : Prop :=
  A.rows = R ∧ A.cols = C ∧ A.row.length = R ∧ ∀ w ∈ A.row, w.length = C

/-- A cipher context holds what rule R24 says it holds: KEYED implies INST (rule R35 item 5), and what INST and KEYED make
meaningful has the sizes of its parameters. -/
abbrev Ctx.Shape (p : Params) (x : Ctx) : Prop :=
  (x.keyed = true → x.inst = true) ∧
  (x.inst = true →
    validParams p x.par = true ∧
    (x.lin.length = x.par.r.toNat ∧ ∀ A ∈ x.lin, A.Shape x.par.bs.toNat x.par.bs.toNat) ∧
    (x.invlin.length = x.par.r.toNat ∧ ∀ A ∈ x.invlin, A.Shape x.par.bs.toNat x.par.bs.toNat) ∧
    (x.rc.length = x.par.r.toNat ∧ ∀ v ∈ x.rc, v.length = x.par.bs.toNat) ∧
    (x.km.length = x.par.r.toNat + 1 ∧ ∀ A ∈ x.km, A.Shape x.par.bs.toNat x.par.ks.toNat)) ∧
  (x.keyed = true →
    x.mkey.length = x.par.ks.toNat ∧
    (x.rk.length = x.par.r.toNat + 1 ∧ ∀ v ∈ x.rk, v.length = x.par.bs.toNat))

/-- The in-flight command, where there is one (rule R34). -/
def Phase.inFlight : Phase → Option Job
  | .idle => none
  | .clearing => none
  | .running j => some j

/-- While a command is in flight no error is recorded (rule R35 item 1) and the sampled cipher parameters are the live ones
(rule R49). -/
abbrev State.jobOk (s : State) : Prop :=
  ∀ j ∈ s.phase.inFlight, s.err = none ∧ j.cxp = s.cx.map (·.par)

/-- The sizes of rules R13 to R24 and items 1 to 5 of rule R35: the parameters are valid, every file has the registers the
parameters give it, lengths and counts are in their bounds, storage bits that do not exist are 0, every view buffer holds
VPTR bits and VPTR is at most VCAP, and every context has its shape. (Item 3 holds by construction: element 0 of a share
array has no storage.) -/
abbrev State.Shape (s : State) : Prop :=
  s.cfg.valid ∧
  (s.v.length = s.cfg.nv ∧ ∀ r ∈ s.v, r.len ≤ s.cfg.dmax ∧ r.bits.toNat < 2 ^ s.cfg.dmax) ∧
  (s.m.length = s.cfg.nm ∧ ∀ r ∈ s.m, r.rows ≤ s.cfg.dmax ∧ r.cols ≤ s.cfg.dmax ∧ r.bits.length = s.cfg.dmax ∧
    ∀ x ∈ r.bits, x.toNat < 2 ^ s.cfg.dmax) ∧
  (s.sh.length = s.cfg.ns ∧ ∀ r ∈ s.sh, r.cnt ≤ s.cfg.pmax ∧ r.b.toNat < 2 ^ s.cfg.pmax) ∧
  (s.tr.length = s.cfg.nt ∧ ∀ r ∈ s.tr, r.cnt ≤ s.cfg.pmax ∧ r.a.toNat < 2 ^ s.cfg.pmax ∧ r.b.toNat < 2 ^ s.cfg.pmax ∧
    r.c.toNat < 2 ^ s.cfg.pmax) ∧
  (s.views.length = s.cfg.pmax ∧ s.vptr ≤ s.cfg.vcap ∧ ∀ v ∈ s.views, v.length = s.vptr) ∧
  (s.cx.length = s.cfg.nctx ∧ ∀ x ∈ s.cx, x.Shape s.cfg) ∧
  s.jobOk

/-- Item 6 of rule R35 for one context: every linear layer has full rank, INVLIN holds its inverse by rule R83, and every key
matrix has rank at least `min(bs, ks)`. -/
abbrev Ctx.Ranks (x : Ctx) : Prop :=
  x.inst = true →
    (∀ A ∈ x.lin, matRank A = x.par.bs.toNat) ∧ x.invlin = x.lin.map matInv ∧
    ∀ K ∈ x.km, min x.par.bs.toNat x.par.ks.toNat ≤ matRank K

/-- Item 6 of rule R35. -/
abbrev State.Ranks (s : State) : Prop := ∀ x ∈ s.cx, x.Ranks

/-- Item 7 of rule R35: the generator's register is never all zeros. -/
abbrev State.GeneratorAlive (s : State) : Prop := s.lfsr.s ≠ 0

/-! ### Matrices over GF(2), for statements about `rank` and `inv` (rules R81, R84) -/

/-- The product of two matrices over GF(2): entry `(r, j)` is the parity of `A[r][k] ∧ B[k][j]` (rules R9, R84). -/
def matMul (A B : Mat) : Mat :=
  { rows := A.rows, cols := B.cols
    row := (List.range A.rows).map fun r => (List.range B.cols).map fun j =>
      parity ((List.range A.cols).map fun k => bitAt (A.row.getD r []) k && bitAt (B.row.getD k []) j) }

/-- `I_n` as a matrix value (rule R9). -/
def matIdentity (n : Nat) : Mat := { rows := n, cols := n, row := identityRows n }

/-- Row `r` of a matrix value as a vector over the field with two elements. -/
def rowVector (A : Mat) (r : Fin A.rows) : Fin A.cols → ZMod 2 :=
  fun j => if bitAt (A.row.getD r []) j then 1 else 0

/-- INVLIN undoes LIN and LIN undoes INVLIN, round by round (rule R35 item 6, rule R84). -/
abbrev Ctx.Inverts (x : Ctx) : Prop :=
  ∀ i, i < x.par.r.toNat → ∀ v : Vec, v.length = x.par.bs.toNat →
    matVecMul (x.invlin.getD i .empty) (matVecMul (x.lin.getD i .empty) v) = v ∧
    matVecMul (x.lin.getD i .empty) (matVecMul (x.invlin.getD i .empty) v) = v

/-- The 3-bit integer value of group `k` of a block (rule R102). -/
def groupValue (v : Vec) (k : Nat) : Nat :=
  (bitAt v (3 * k)).toNat + 2 * (bitAt v (3 * k + 1)).toNat + 4 * (bitAt v (3 * k + 2)).toNat

/-! ### What the host reads (rules R38, R43, R47) -/

/-- A host read of the register at `off` is performed and returns the number `n`. -/
abbrev readsAs (s : State) (off n : Nat) : Prop := ∃ t, s.memRead off 4 = .next t ∧ t.rdata.toNat = n

/-- A host read of the register at `off` is performed and returns the word whose bit `k` is `f k`. -/
abbrev readsBits (s : State) (off : Nat) (f : Nat → Bool) : Prop :=
  ∃ t, s.memRead off 4 = .next t ∧ ∀ k, k < 32 → t.rdata.getLsbD k = f k

/-- WSEL selects no valid word: no register, a row or a component that does not exist, or a word index beyond the selected
string (rule R47). -/
abbrev State.noWindowWord (s : State) : Prop :=
  s.winSel = none ∨
  (∃ i, s.winSel = some (.v i) ∧ wordsFor s.cfg.dmax ≤ s.winIdx) ∨
  (∃ i, s.winSel = some (.m i) ∧ (s.cfg.dmax ≤ s.winRow ∨ wordsFor s.cfg.dmax ≤ s.winCol)) ∨
  (∃ i, s.winSel = some (.s i) ∧ wordsFor (s.cfg.pmax + 1) ≤ s.winIdx) ∨
  (∃ i, s.winSel = some (.t i) ∧ (3 ≤ s.winRow ∨ wordsFor (s.cfg.pmax + 1) ≤ s.winCol)) ∨
  (∃ p, s.winSel = some (.view p) ∧ wordsFor s.cfg.vcap ≤ s.winIdx)

/-! ### Registers written whole (rules R15, R16) -/

/-- Every storage bit of `V[d]` at or above its length is 0 (rule R15). -/
abbrev vecRestClear (d : RegIdx) (t : State) : Prop := ∀ j, (t.vreg d).len ≤ j → (t.vreg d).bits.getLsbD j = false

/-- Every storage bit of `M[d]` outside its declared region is 0 (rule R16). -/
abbrev matRestClear (d : RegIdx) (t : State) : Prop :=
  ∀ r j, ((t.mreg d).rows ≤ r ∨ (t.mreg d).cols ≤ j) → ((t.mreg d).bits.getD r 0).getLsbD j = false

/-! ### Frames: what a completed command leaves unchanged -/

/-- From `s` to `t` a command completed and nothing but BUSY and DONE changed (rule R73). -/
abbrev onlyStatus (s t : State) : Prop := t = { s with phase := .idle, done := true }

/-- From `s` to `t` a command completed and nothing but `V[d]`, BUSY and DONE changed. -/
abbrev onlyVec (d : RegIdx) (s t : State) : Prop :=
  t = { s with v := t.v, phase := .idle, done := true } ∧ t.v.length = s.v.length ∧
  ∀ i, i ≠ d.toNat → t.v[i]? = s.v[i]?

/-- From `s` to `t` a command completed and nothing but `V[d]`, the generator, BUSY and DONE changed. -/
abbrev onlyVecAndGenerator (d : RegIdx) (s t : State) : Prop :=
  t = { s with v := t.v, lfsr := t.lfsr, phase := .idle, done := true } ∧ t.v.length = s.v.length ∧
  ∀ i, i ≠ d.toNat → t.v[i]? = s.v[i]?

/-- From `s` to `t` a command completed and nothing but `M[d]`, BUSY and DONE changed. -/
abbrev onlyMat (d : RegIdx) (s t : State) : Prop :=
  t = { s with m := t.m, phase := .idle, done := true } ∧ t.m.length = s.m.length ∧
  ∀ i, i ≠ d.toNat → t.m[i]? = s.m[i]?

/-- From `s` to `t` a command completed and nothing but `M[d]`, the generator, BUSY and DONE changed. -/
abbrev onlyMatAndGenerator (d : RegIdx) (s t : State) : Prop :=
  t = { s with m := t.m, lfsr := t.lfsr, phase := .idle, done := true } ∧ t.m.length = s.m.length ∧
  ∀ i, i ≠ d.toNat → t.m[i]? = s.m[i]?

/-- From `s` to `t` a command completed and nothing but `S[d]`, BUSY and DONE changed. -/
abbrev onlyShare (d : RegIdx) (s t : State) : Prop :=
  t = { s with sh := t.sh, phase := .idle, done := true } ∧ t.sh.length = s.sh.length ∧
  ∀ i, i ≠ d.toNat → t.sh[i]? = s.sh[i]?

/-- From `s` to `t` a command completed and nothing but `T[d]`, BUSY and DONE changed. -/
abbrev onlyTriple (d : RegIdx) (s t : State) : Prop :=
  t = { s with tr := t.tr, phase := .idle, done := true } ∧ t.tr.length = s.tr.length ∧
  ∀ i, i ≠ d.toNat → t.tr[i]? = s.tr[i]?

/-- From `s` to `t` a command completed and nothing but `CX[c]`, BUSY and DONE changed. -/
abbrev onlyCtx (c : RegIdx) (s t : State) : Prop :=
  t = { s with cx := t.cx, phase := .idle, done := true } ∧ t.cx.length = s.cx.length ∧
  ∀ i, i ≠ c.toNat → t.cx[i]? = s.cx[i]?

/-- From `s` to `t` a GATE.AND or GATE.OR completed, and nothing but `S[d]`, `T[t]`, the views, VPTR, BUSY and DONE changed
(rules R129, R130, R132, R133). -/
abbrev onlyTripleGate (d k : RegIdx) (s t : State) : Prop :=
  t = { s with sh := t.sh, tr := t.tr, views := t.views, vptr := t.vptr, phase := .idle, done := true } ∧
  t.sh.length = s.sh.length ∧ (∀ i, i ≠ d.toNat → t.sh[i]? = s.sh[i]?) ∧
  t.tr.length = s.tr.length ∧ (∀ i, i ≠ k.toNat → t.tr[i]? = s.tr[i]?) ∧
  t.treg k = { s.treg k with valid := false }

end Sys2Proof.Machine
end

