-- ==== Sys2Proof/Certificates/Slice0/Obligations.lean ====
section
/-! DEFINITION. The statements about NPS-CORE, each a proposition `Obligations.<Name>`; nothing is proved here. -/

open Sys2Proof Sys2Proof.Machine

/-! ### Decoding and encoding -/

/-- Decoding the word of any command gives the command back, with every operand at every value its field admits (rules R58
to R61, R68). -/
def Obligations.DecodeOfEncode : Prop := ∀ i : Instr, decode (encode i) = .ok i

/-- Rule R64: "Every 32-bit word is either exactly one row of rule R61 or an error": a word that decodes is the word of the
command it decodes to, so no two rows share a word and no bit of a word is dropped. -/
def Obligations.DecodedWordIsTheEncoding : Prop := ∀ (w : Word) (i : Instr), decode w = .ok i → encode i = w

/-- Words written out from the tables of rules R58 to R61 decode to the commands they stand for. -/
def Obligations.CommandWordsDecode : Prop :=
  decode 0b00000100010000000000100000000000 = .ok (.vxor 2 0 1) ∧
  decode 0b00010100010000110000000000000000 = .ok (.minv 2 3) ∧
  decode 0b00100000000000000000000000100000 = .ok (.graw 0 32) ∧
  decode 0b01011000100000000000000000000100 = .ok (.lxrd 4 0 .rk) ∧
  decode 0b01100100001000100000000000000000 = .ok (.recon 1 2 0) ∧
  decode 0b10000000011000000000100000001001 = .ok (.gateOr 3 0 1 1) ∧
  decode 0b10000100000000000000000000000000 = .ok .vclr

/-- Rule R66, with rules R64 and R65 (and R70, steps 1 to 3): exactly the listed OP values are undefined; a GATE word with KIND 5,
6 or 7 is an unsupported gate WHATEVER its other fields hold; an LXRD word with SEL 6 or 7 has no selector. The completion of
a word that is no command records its error code and the word, and changes nothing else but BUSY and DONE. -/
def Obligations.RejectedWords : Prop :=
  (∀ w : Word, decode w = .error .undefinedOpcode ↔
    (fieldOp w).toNat ∈ [0x06, 0x07, 0x0B, 0x0C, 0x0D, 0x0E, 0x0F, 0x17, 0x1B, 0x1C, 0x1D, 0x1E, 0x1F] ∨
    0x22 ≤ (fieldOp w).toNat) ∧
  (∀ w : Word, decode w = .error .unsupportedGate ↔ fieldOp w = 0x20 ∧ 5 ≤ (fieldLow3 w).toNat) ∧
  (∀ w : Word, decode w = .error .undefinedSelector ↔ fieldOp w = 0x16 ∧ 6 ≤ (fieldLow3 w).toNat) ∧
  (∀ (s : State) (j : Job) (e : DecodeError), s.phase = .running j → decode j.word = .error e →
    s.turnStep = .next { s with
      err := some (if e = .unsupportedGate then .unsupportedGateOperation else .illegalCommand)
      errCmd := j.word, phase := .idle, done := true })

/-! ### The step -/

/-- The engine's turn runs the decoded command (rule R73): with an empty script, or the host's wait next in it, the
TRNG first answers what the command asks for, which changes nothing for a command that asks for no bit or has them all; with
a turn of the engine next in the script the command is executed as it stands. (Who moves when, and that the TRNG answers at
once in the first two cases, is the model's: log entries 2 and 24.) -/
def Obligations.StepRunsDecodedCommand : Prop :=
  ∀ (s : State) (j : Job) (i : Instr), s.phase = .running j → decode j.word = .ok i →
    (s.env = [] ∨ (∃ rest, s.env = .poll :: rest) →
      step s = exec i s.answerTrng ∧ (trngNeed i s ≤ j.trngBits.length → step s = exec i s)) ∧
    (∀ rest, s.env = .turn :: rest → step s = exec i { s with env := rest })

/-- Rule R138: no command faults and none is refused; every one answers a next state. And no step stops the machine but a host
access that the bus cannot express (rule R38). -/
def Obligations.OnlyInexpressibleAccessesStopAStep : Prop :=
  (∀ (i : Instr) (s : State), ∃ t, exec i s = .next t) ∧
  (∀ s : State,
    (∃ t, step s = .next t) ∨
    (step s = .refused .hostAccessForm ∧
      ∃ e rest, s.env = e :: rest ∧ ∃ addr size, (size ≠ 4 ∨ addr % 4 ≠ 0 ∨ 0x1000 ≤ addr) ∧
        (e = .read addr size ∨ ∃ x, e = .write addr size x)))

/-! ### Error handling -/

/-- Rules R141 and R144: a command that completes with an error, decoded or not, writes ERR.CODE, ERRCMD, BUSY and DONE and
nothing else (so it takes no generator step), and it requests no true-random bit. -/
def Obligations.NoPartialResult : Prop :=
  ∀ (s t : State) (j : Job), s.phase = .running j → s.err = none → s.turnStep = .next t → t.err ≠ none →
    (∃ e, t = { s with err := some e, errCmd := j.word, phase := .idle, done := true }) ∧ s.trngReq = false

/-- Rule R63 (and R70 step 5): a register field outside its file fails with ILLEGAL_COMMAND, whatever else is wrong. -/
def Obligations.IndexOutsideItsFileIsIllegal : Prop :=
  ∀ (i : Instr) (s : State), i.wellFormed s.cfg = false → exec i s = .next (s.failCommand .illegalCommand)

/-- Rule R118: every command that uses the party count fails with INVALID_PARAMETERS when it is not in 2 to PMAX, before any
count or bit index is looked at; reset leaves PARTIES.N = 0, so these commands fail until the host writes PARTIES. -/
def Obligations.PartyCountOutOfRangeFails : Prop :=
  (∀ (i : Instr) (s : State), i.wellFormed s.cfg = true → ¬ (2 ≤ s.job.n.toNat ∧ s.job.n.toNat ≤ s.cfg.pmax) →
    ((∃ d a k, i = .share d a k) ∨ (∃ d a k, i = .recon d a k) ∨ (∃ d, i = .tgen d) ∨ (∃ d x y t, i = .gateAnd d x y t) ∨
      (∃ d x y t, i = .gateOr d x y t) ∨ (∃ d x y, i = .gateXor d x y) ∨ (∃ d x, i = .gateNot d x) ∨
      (∃ d x, i = .gateId d x)) →
    exec i s = .next (s.failCommand .invalidParameters)) ∧
  (∀ p : Params, (State.resetOf p).parties = 0)

/-- Mismatched lengths and dimensions fail with INVALID_PARAMETERS: VXOR, VAND and MVMUL at once (rules R77 to R79), LKEY, LENC,
LDEC, LSUB and LISUB once the context is ready (rules R107 to R111). LINST with parameters that are not valid fails the same way
(rules R96, R106), and so do GRAW and GSS of a length above DMAX and GMAT of a dimension above DMAX (rules R92 to R94), and LXRD,
once the context is ready, of a round index out of range for its selector (rule R112). -/
def Obligations.ParameterChecksFail : Prop :=
  (∀ (s : State) (d a b : RegIdx), (Instr.vxor d a b).wellFormed s.cfg = true → (s.vreg a).len ≠ (s.vreg b).len →
    exec (.vxor d a b) s = .next (s.failCommand .invalidParameters) ∧
    exec (.vand d a b) s = .next (s.failCommand .invalidParameters)) ∧
  (∀ (s : State) (d a b : RegIdx), (Instr.mvmul d a b).wellFormed s.cfg = true → (s.vreg b).len ≠ (s.mreg a).cols →
    exec (.mvmul d a b) s = .next (s.failCommand .invalidParameters)) ∧
  (∀ (s : State) (c k : RegIdx), (Instr.lkey c k).wellFormed s.cfg = true → (s.ctx c).inst = true →
    (s.vreg k).len ≠ s.ks c → exec (.lkey c k) s = .next (s.failCommand .invalidParameters)) ∧
  (∀ (s : State) (d a c : RegIdx), (Instr.lenc d a c).wellFormed s.cfg = true → (s.vreg a).len ≠ s.bs c →
    ((s.ctx c).keyed = true →
      exec (.lenc d a c) s = .next (s.failCommand .invalidParameters) ∧
      exec (.ldec d a c) s = .next (s.failCommand .invalidParameters)) ∧
    ((s.ctx c).inst = true →
      exec (.lsub d a c) s = .next (s.failCommand .invalidParameters) ∧
      exec (.lisub d a c) s = .next (s.failCommand .invalidParameters))) ∧
  (∀ (s : State) (c : RegIdx), s.Shape → (Instr.linst c).wellFormed s.cfg = true →
    ¬ (1 ≤ (s.ctx c).par.bs.toNat ∧ (s.ctx c).par.bs.toNat ≤ s.cfg.dmax ∧ 1 ≤ (s.ctx c).par.ks.toNat ∧
       (s.ctx c).par.ks.toNat ≤ s.cfg.dmax ∧ 3 * (s.ctx c).par.m.toNat ≤ (s.ctx c).par.bs.toNat ∧
       (s.ctx c).par.r.toNat ≤ s.cfg.rmax) →
    exec (.linst c) s = .next (s.failCommand .invalidParameters)) ∧
  (∀ (s : State) (d : RegIdx) (len : Imm), (Instr.graw d len).wellFormed s.cfg = true → s.cfg.dmax < len.toNat →
    exec (.graw d len) s = .next (s.failCommand .invalidParameters) ∧
    exec (.gss d len) s = .next (s.failCommand .invalidParameters)) ∧
  (∀ (s : State) (d : RegIdx), (Instr.gmat d).wellFormed s.cfg = true →
    (s.cfg.dmax < s.job.argA.toNat ∨ s.cfg.dmax < s.job.argB.toNat) →
    exec (.gmat d) s = .next (s.failCommand .invalidParameters)) ∧
  (∀ (s : State) (d c : RegIdx), (Instr.lxrd d c .lin).wellFormed s.cfg = true → (s.ctx c).inst = true →
    (s.rounds c ≤ s.job.argA.toNat →
      exec (.lxrd d c .lin) s = .next (s.failCommand .invalidParameters) ∧
      exec (.lxrd d c .invlin) s = .next (s.failCommand .invalidParameters)) ∧
    (s.rounds c < s.job.argA.toNat → exec (.lxrd d c .keym) s = .next (s.failCommand .invalidParameters))) ∧
  (∀ (s : State) (d c : RegIdx), (Instr.lxrd d c .rc).wellFormed s.cfg = true → (s.ctx c).inst = true →
    (s.rounds c ≤ s.job.argA.toNat → exec (.lxrd d c .rc) s = .next (s.failCommand .invalidParameters)) ∧
    ((s.ctx c).keyed = true → s.rounds c < s.job.argA.toNat →
      exec (.lxrd d c .rk) s = .next (s.failCommand .invalidParameters)))

/-- Rule R97: a command that finds its context in too early a state fails with NOT_READY: LKEY, LSUB, LISUB and every LXRD
before INST, LENC and LDEC before KEYED, LXRD of RK and MKEY before KEYED. -/
def Obligations.ContextTooEarlyIsNotReady : Prop :=
  ∀ (s : State) (d a c : RegIdx) (sel : LxrdSel),
    ((s.ctx c).inst = false → (Instr.lkey c a).wellFormed s.cfg = true →
      exec (.lkey c a) s = .next (s.failCommand .notReady)) ∧
    ((s.ctx c).inst = false → (Instr.lsub d a c).wellFormed s.cfg = true →
      exec (.lsub d a c) s = .next (s.failCommand .notReady) ∧ exec (.lisub d a c) s = .next (s.failCommand .notReady)) ∧
    ((s.ctx c).keyed = false → (Instr.lenc d a c).wellFormed s.cfg = true →
      exec (.lenc d a c) s = .next (s.failCommand .notReady) ∧ exec (.ldec d a c) s = .next (s.failCommand .notReady)) ∧
    ((s.ctx c).inst = false → (Instr.lxrd d c sel).wellFormed s.cfg = true →
      exec (.lxrd d c sel) s = .next (s.failCommand .notReady)) ∧
    ((s.ctx c).keyed = false → (sel = .rk ∨ sel = .mkey) → (Instr.lxrd d c sel).wellFormed s.cfg = true →
      exec (.lxrd d c sel) s = .next (s.failCommand .notReady))

/-- Rules R119, R120, R123 and R140, for a valid party count: a bit index at or above the length fails SHARE and RECON with
INVALID_PARAMETERS, then a count other than `n` fails RECON with TRIPLE_EXHAUSTED; a share register whose count is not `n`, then a triple that is not usable for
`n`, fail a GATE with TRIPLE_EXHAUSTED; then an append beyond VCAP fails GATE.AND and GATE.OR with VIEW_OVERFLOW. -/
def Obligations.SharingAndGateChecksInOrder : Prop :=
  (∀ (s : State) (d a : RegIdx) (k : Imm), s.okParties = true →
    ((Instr.share d a k).wellFormed s.cfg = true → (s.vreg a).len ≤ k.toNat →
      exec (.share d a k) s = .next (s.failCommand .invalidParameters)) ∧
    ((Instr.recon d a k).wellFormed s.cfg = true → (s.vreg d).len ≤ k.toNat →
      exec (.recon d a k) s = .next (s.failCommand .invalidParameters)) ∧
    ((Instr.recon d a k).wellFormed s.cfg = true → k.toNat < (s.vreg d).len → (s.sreg a).cnt ≠ s.partyCount →
      exec (.recon d a k) s = .next (s.failCommand .tripleExhausted))) ∧
  (∀ (s : State) (d x y k : RegIdx), (Instr.gateAnd d x y k).wellFormed s.cfg = true → s.okParties = true →
    ((s.sreg x).cnt ≠ s.partyCount →
      exec (.gateNot d x) s = .next (s.failCommand .tripleExhausted) ∧
      exec (.gateId d x) s = .next (s.failCommand .tripleExhausted)) ∧
    (((s.sreg x).cnt ≠ s.partyCount ∨ (s.sreg y).cnt ≠ s.partyCount) →
      exec (.gateXor d x y) s = .next (s.failCommand .tripleExhausted)) ∧
    (((s.sreg x).cnt ≠ s.partyCount ∨ (s.sreg y).cnt ≠ s.partyCount ∨ (s.treg k).valid = false ∨
        (s.treg k).cnt ≠ s.partyCount) →
      exec (.gateAnd d x y k) s = .next (s.failCommand .tripleExhausted) ∧
      exec (.gateOr d x y k) s = .next (s.failCommand .tripleExhausted)) ∧
    ((s.sreg x).cnt = s.partyCount → (s.sreg y).cnt = s.partyCount → (s.treg k).valid = true →
      (s.treg k).cnt = s.partyCount → s.cfg.vcap < s.vptr + 5 + 2 * s.partyCount →
      exec (.gateAnd d x y k) s = .next (s.failCommand .viewOverflow) ∧
      exec (.gateOr d x y k) s = .next (s.failCommand .viewOverflow)))

/-! ### GF(2) algebra -/

/-- NOP's and VCLR's effects, their frames and their completion: NOP changes nothing but BUSY and DONE (rules R73, R75); VCLR
clears every view bit and VPTR and nothing else (rule R137). -/
def Obligations.NopAndVclrResult : Prop :=
  ∀ s : State,
    (∃ t, exec .nop s = .next t ∧ onlyStatus s t) ∧
    (∃ t, exec .vclr s = .next t ∧
      t = { s with views := t.views, vptr := 0, phase := .idle, done := true } ∧ t.views.length = s.cfg.pmax ∧
      ∀ v ∈ t.views, ∀ w, viewWord v w = 0)

/-- VXOR's and VAND's results, their frame and their completion (rules R15, R77, R78). -/
def Obligations.ElementwiseResult : Prop :=
  ∀ (s : State) (d a b : RegIdx), s.Shape → (Instr.vxor d a b).wellFormed s.cfg = true →
    (s.vreg a).len = (s.vreg b).len →
    (∃ t, exec (.vxor d a b) s = .next t ∧ onlyVec d s t ∧ (t.vreg d).len = (s.vreg a).len ∧
      (∀ j, j < (s.vreg a).len →
        (t.vreg d).bits.getLsbD j = xor ((s.vreg a).bits.getLsbD j) ((s.vreg b).bits.getLsbD j)) ∧
      (∀ j, (s.vreg a).len ≤ j → (t.vreg d).bits.getLsbD j = false)) ∧
    (∃ t, exec (.vand d a b) s = .next t ∧ onlyVec d s t ∧ (t.vreg d).len = (s.vreg a).len ∧
      (∀ j, j < (s.vreg a).len →
        (t.vreg d).bits.getLsbD j = ((s.vreg a).bits.getLsbD j && (s.vreg b).bits.getLsbD j)) ∧
      (∀ j, (s.vreg a).len ≤ j → (t.vreg d).bits.getLsbD j = false))

/-- MVMUL's result, its frame and its completion (rules R9, R15, R16, R79): bit `r` is the parity over the declared columns of
the AND of row `r` and the vector. -/
def Obligations.MvmulResult : Prop :=
  ∀ (s : State) (d a b : RegIdx), s.Shape → (Instr.mvmul d a b).wellFormed s.cfg = true →
    (s.vreg b).len = (s.mreg a).cols →
    ∃ t, exec (.mvmul d a b) s = .next t ∧ onlyVec d s t ∧ (t.vreg d).len = (s.mreg a).rows ∧
      (∀ r, r < (s.mreg a).rows →
        (t.vreg d).bits.getLsbD r = parity ((List.range (s.mreg a).cols).map fun j =>
          ((s.mreg a).bits.getD r 0).getLsbD j && (s.vreg b).bits.getLsbD j)) ∧
      (∀ r, (s.mreg a).rows ≤ r → (t.vreg d).bits.getLsbD r = false)

/-- Rule R81: (a) the rank is the dimension of the GF(2) span of the rows over the declared columns, (b) it is at most the
number of rows and at most the number of columns, and (c) storage outside the declared region takes no part: two states whose
register has the same dimensions and the same bits in that region have the same rank there. -/
def Obligations.RankIsDimensionOfRowSpan : Prop :=
  (∀ (R C : Nat) (A : Mat), A.Shape R C →
    matRank A = Module.finrank (ZMod 2) (Submodule.span (ZMod 2) (Set.range (rowVector A))) ∧ matRank A ≤ min R C) ∧
  (∀ (s s' : State) (a : RegIdx), (s.mreg a).rows = (s'.mreg a).rows → (s.mreg a).cols = (s'.mreg a).cols →
    (∀ r j, r < (s.mreg a).rows → j < (s.mreg a).cols →
      ((s.mreg a).bits.getD r 0).getLsbD j = ((s'.mreg a).bits.getD r 0).getLsbD j) →
    matRank (s.mat a) = matRank (s'.mat a))

/-- RANK's result, its frame and its completion (rules R26, R82): RESULT is the rank, as a 32-bit number. -/
def Obligations.RankResult : Prop :=
  ∀ (s : State) (a : RegIdx), s.Shape → (Instr.rank a).wellFormed s.cfg = true →
    ∃ t, exec (.rank a) s = .next t ∧ t = { s with result := t.result, phase := .idle, done := true } ∧
      t.result.toNat = matRank (s.mat a)

/-- Rule R84: for a square matrix of full rank, `inv` gives the unique two-sided inverse. -/
def Obligations.InverseIsTheTwoSidedInverse : Prop :=
  ∀ (N : Nat) (A : Mat), A.Shape N N → matRank A = N →
    (matInv A).Shape N N ∧ matMul (matInv A) A = matIdentity N ∧ matMul A (matInv A) = matIdentity N ∧
    (∀ B : Mat, B.Shape N N → matMul B A = matIdentity N → matMul A B = matIdentity N → B = matInv A) ∧
    (∀ v : Vec, v.length = N →
      matVecMul (matInv A) (matVecMul A v) = v ∧ matVecMul A (matVecMul (matInv A) v) = v)

/-- MINV's result, its frame and its completion (rules R16, R85): the whole of `M[d]` is the inverse by rule R83, and every
storage bit outside its region is 0. Of a matrix that is not square, or not of full rank, MINV fails with SINGULAR_MATRIX. -/
def Obligations.MinvResult : Prop :=
  (∀ (s : State) (d a : RegIdx), s.Shape → (Instr.minv d a).wellFormed s.cfg = true →
    (s.mreg a).rows = (s.mreg a).cols → (s.mreg a).rows ≤ matRank (s.mat a) →
    ∃ t, exec (.minv d a) s = .next t ∧ onlyMat d s t ∧ t.mat d = matInv (s.mat a) ∧
      (t.mreg d).rows = (s.mreg a).rows ∧ (t.mreg d).cols = (s.mreg a).rows ∧
      ∀ r j, ((s.mreg a).rows ≤ r ∨ (s.mreg a).rows ≤ j) → ((t.mreg d).bits.getD r 0).getLsbD j = false) ∧
  (∀ (s : State) (d a : RegIdx), (Instr.minv d a).wellFormed s.cfg = true →
    ((s.mreg a).rows ≠ (s.mreg a).cols ∨ matRank (s.mat a) < (s.mreg a).rows) →
    exec (.minv d a) s = .next (s.failCommand .singularMatrix))

/-! ### The bit generator -/

/-- Rule R95 item 2: the raw step is a bijection on the 80-bit states and maps the all-zero state to itself. -/
def Obligations.RawStepIsBijection : Prop :=
  Function.Bijective lfsrStep ∧ lfsrStep 0 = 0

/-- GRAW's result, its frame and its completion (rules R86, R88, R91, R92): bit `j` is the feedback of the register after `j`
raw steps from the warmed-up state; a draw of no bit leaves the generator as it was, warm-up included. -/
def Obligations.GrawResult : Prop :=
  ∀ (s : State) (d : RegIdx) (len : Imm), s.Shape → (Instr.graw d len).wellFormed s.cfg = true → len.toNat ≤ s.cfg.dmax →
    ∃ t, exec (.graw d len) s = .next t ∧ onlyVecAndGenerator d s t ∧ (t.vreg d).len = len.toNat ∧
      (∀ j, j < len.toNat →
        (t.vreg d).bits.getLsbD j = lfsrFeedback (lfsrSteps j (if s.lfsr.init then s.lfsr.s else lfsrSteps 160 s.lfsr.s))) ∧
      (∀ j, len.toNat ≤ j → (t.vreg d).bits.getLsbD j = false) ∧
      (len.toNat = 0 → t.lfsr = s.lfsr) ∧
      (0 < len.toNat → t.lfsr.init = true ∧
        t.lfsr.s = lfsrSteps len.toNat (if s.lfsr.init then s.lfsr.s else lfsrSteps 160 s.lfsr.s))

/-- GSS's result, its frame and its completion (rules R86 to R89, R91, R93, R95 item 4). One self-shrunk bit, from the warmed-up
register `S`: with `k` the first attempt whose choice bit is 1, the bit is the raw bit after that choice and the register has
moved `2·k + 2` raw steps. GSS completes from every register but the all-zero one: bit `j` of `V[d]` is the self-shrunk bit of
the generator as the bits before it leave it, index 0 first. -/
def Obligations.GssResult : Prop :=
  (∀ (l : Lfsr) (S : BitVec 80) (k : Nat), S = (if l.init then l.s else lfsrSteps 160 l.s) →
    (∀ j, j < k → lfsrFeedback (lfsrSteps (2 * j) S) = false) → lfsrFeedback (lfsrSteps (2 * k) S) = true →
    lfsrSs l = some (lfsrFeedback (lfsrSteps (2 * k + 1) S), { s := lfsrSteps (2 * k + 2) S, init := true })) ∧
  (∀ (s : State) (d : RegIdx) (len : Imm), s.Shape → s.GeneratorAlive → (Instr.gss d len).wellFormed s.cfg = true →
    len.toNat ≤ s.cfg.dmax →
    ∃ t, exec (.gss d len) s = .next t ∧ onlyVecAndGenerator d s t ∧ (t.vreg d).len = len.toNat ∧
      drawSs len.toNat s.lfsr = some (t.vec d, t.lfsr) ∧
      (∃ gen : Nat → Lfsr, gen 0 = s.lfsr ∧ gen len.toNat = t.lfsr ∧
        ∀ j, j < len.toNat → lfsrSs (gen j) = some ((t.vreg d).bits.getLsbD j, gen (j + 1))) ∧
      ∀ j, len.toNat ≤ j → (t.vreg d).bits.getLsbD j = false)

/-- GMAT's result, its frame and its completion (rules R91, R94): ARG_A rows and ARG_B columns of self-shrunk bits, row 0 first
and column 0 first within a row, and every storage bit outside them 0. -/
def Obligations.GmatResult : Prop :=
  ∀ (s : State) (d : RegIdx), s.Shape → s.GeneratorAlive → (Instr.gmat d).wellFormed s.cfg = true →
    s.job.argA.toNat ≤ s.cfg.dmax → s.job.argB.toNat ≤ s.cfg.dmax →
    ∃ t, exec (.gmat d) s = .next t ∧ onlyMatAndGenerator d s t ∧
      (t.mreg d).rows = s.job.argA.toNat ∧ (t.mreg d).cols = s.job.argB.toNat ∧
      drawMatrix s.job.argA.toNat s.job.argB.toNat s.lfsr = some (t.mat d, t.lfsr) ∧
      (∃ gen : Nat → Lfsr, gen 0 = s.lfsr ∧ gen (s.job.argA.toNat * s.job.argB.toNat) = t.lfsr ∧
        ∀ r j, r < s.job.argA.toNat → j < s.job.argB.toNat → lfsrSs (gen (r * s.job.argB.toNat + j)) =
          some (((t.mreg d).bits.getD r 0).getLsbD j, gen (r * s.job.argB.toNat + j + 1))) ∧
      ∀ r j, (s.job.argA.toNat ≤ r ∨ s.job.argB.toNat ≤ j) → ((t.mreg d).bits.getD r 0).getLsbD j = false

/-- Rules R90, R114 and R165: only GRAW, GSS, GMAT and LINST move the generator. -/
def Obligations.OnlyDrawingCommandsMoveTheGenerator : Prop :=
  ∀ (i : Instr) (s t : State), exec i s = .next t →
    (∃ d len, i = .graw d len) ∨ (∃ d len, i = .gss d len) ∨ (∃ d, i = .gmat d) ∨ (∃ c, i = .linst c) ∨ t.lfsr = s.lfsr

/-! ### LowMC -/

/-- Rule R99: LINST has no retry cap. When the model's retry loop gives up, no number of further candidates ends it: the
command would never complete. -/
def Obligations.RetryLoopHasNoCap : Prop :=
  ∀ (keep : Nat → Bool) (R C rej : Nat) (l : Lfsr), drawUntil keep R C cycleBound rej l = none →
    ∀ fuel, drawUntil keep R C fuel rej l = none

/-- LINST's effect, its frame and its completion, once its loops end (rules R73 (b), R98, R106): the context holds the
instantiation, INST is 1, KEYED is 0, RETRIES counts the rejected candidates, the generator has moved on, and no other
context changes. -/
def Obligations.LinstResult : Prop :=
  ∀ (s : State) (c : RegIdx) (x : Ctx) (rej : Nat) (l : Lfsr), s.Shape → (Instr.linst c).wellFormed s.cfg = true →
    validParams s.cfg (s.ctx c).par = true → instantiate (s.ctx c).par s.lfsr = some (x, rej, l) →
    ∃ t, exec (.linst c) s = .next t ∧
      t = { s with cx := t.cx, lfsr := l, retries := t.retries, phase := .idle, done := true } ∧
      t.retries.toNat = rej ∧ t.ctx c = x ∧ x.inst = true ∧ x.keyed = false ∧ x.par = (s.ctx c).par ∧
      t.cx.length = s.cx.length ∧ ∀ i, i ≠ c.toNat → t.cx[i]? = s.cx[i]?

/-- LKEY's effect, its frame and its completion (rules R100, R107): MKEY is the key, every RK is KM times the key, KEYED is 1,
and the matrices and constants of the context stay. -/
def Obligations.LkeyResult : Prop :=
  ∀ (s : State) (c k : RegIdx), s.Shape → (Instr.lkey c k).wellFormed s.cfg = true → (s.ctx c).inst = true →
    (s.vreg k).len = (s.ctx c).par.ks.toNat →
    ∃ t, exec (.lkey c k) s = .next t ∧ onlyCtx c s t ∧
      t.ctx c = { s.ctx c with mkey := s.vec k, rk := (t.ctx c).rk, keyed := true } ∧
      (t.ctx c).rk.length = (s.ctx c).par.r.toNat + 1 ∧
      ∀ i, i ≤ (s.ctx c).par.r.toNat → (t.ctx c).rk.getD i [] = matVecMul ((s.ctx c).km.getD i .empty) (s.vec k)

/-- LENC's and LDEC's results, their frame and their completion (rules R103, R104, R108, R109), with the length that a block
has. -/
def Obligations.CipherBlockResult : Prop :=
  ∀ (s : State) (d a c : RegIdx), s.Shape → (Instr.lenc d a c).wellFormed s.cfg = true → (s.ctx c).keyed = true →
    (s.vreg a).len = (s.ctx c).par.bs.toNat →
    (∃ t, exec (.lenc d a c) s = .next t ∧ onlyVec d s t ∧ (t.vreg d).len = (s.ctx c).par.bs.toNat ∧
      t.vec d = encrypt (s.ctx c).par.m.toNat (s.ctx c).par.r.toNat (s.ctx c) (s.vec a) ∧
      ∀ j, (s.ctx c).par.bs.toNat ≤ j → (t.vreg d).bits.getLsbD j = false) ∧
    (∃ t, exec (.ldec d a c) s = .next t ∧ onlyVec d s t ∧ (t.vreg d).len = (s.ctx c).par.bs.toNat ∧
      t.vec d = decrypt (s.ctx c).par.m.toNat (s.ctx c).par.r.toNat (s.ctx c) (s.vec a) ∧
      ∀ j, (s.ctx c).par.bs.toNat ≤ j → (t.vreg d).bits.getLsbD j = false)

/-- LSUB's and LISUB's results, their frame and their completion (rules R15, R101, R102, R110, R111): each of the m groups at the
low end goes through the table, the bits above them pass unchanged, and the storage bits above the length are 0. -/
def Obligations.SubstitutionResult : Prop :=
  ∀ (s : State) (d a c : RegIdx), s.Shape → (Instr.lsub d a c).wellFormed s.cfg = true → (s.ctx c).inst = true →
    (s.vreg a).len = (s.ctx c).par.bs.toNat →
    (∃ t, exec (.lsub d a c) s = .next t ∧ onlyVec d s t ∧ (t.vreg d).len = (s.vreg a).len ∧ vecRestClear d t ∧
      (∀ k, k < (s.ctx c).par.m.toNat →
        groupValue (t.vec d) k = [0, 1, 3, 6, 7, 4, 5, 2].getD (groupValue (s.vec a) k) 0) ∧
      ∀ j, 3 * (s.ctx c).par.m.toNat ≤ j → bitAt (t.vec d) j = bitAt (s.vec a) j) ∧
    (∃ t, exec (.lisub d a c) s = .next t ∧ onlyVec d s t ∧ (t.vreg d).len = (s.vreg a).len ∧ vecRestClear d t ∧
      (∀ k, k < (s.ctx c).par.m.toNat →
        groupValue (t.vec d) k = [0, 1, 7, 2, 5, 6, 3, 4].getD (groupValue (s.vec a) k) 0) ∧
      ∀ j, 3 * (s.ctx c).par.m.toNat ≤ j → bitAt (t.vec d) j = bitAt (s.vec a) j)

/-- Rule R105 (a): Substitute and invSubstitute are mutual inverses on every block, for every number of S-boxes. -/
def Obligations.SubstitutionsAreMutualInverses : Prop :=
  ∀ (m : Nat) (x : Vec), invSubstitute m (substitute m x) = x ∧ substitute m (invSubstitute m x) = x

/-- Rule R105 (b), by the commands: in a keyed context whose INVLIN inverts its LIN (rule R35 item 6), LDEC of what LENC gave
is the message, and LENC of what LDEC gave is the block. -/
def Obligations.CipherRoundTrip : Prop :=
  ∀ (s t u w : State) (d e a c : RegIdx) (j : Job), s.Shape → (Instr.lenc d a c).wellFormed s.cfg = true →
    (Instr.ldec e d c).wellFormed s.cfg = true → (s.ctx c).keyed = true → (s.ctx c).Inverts →
    (s.vreg a).len = (s.ctx c).par.bs.toNat → j.cxp = s.cx.map (·.par) → u = { t with phase := .running j } →
    (exec (.lenc d a c) s = .next t → exec (.ldec e d c) u = .next w → w.vec e = s.vec a) ∧
    (exec (.ldec d a c) s = .next t → exec (.lenc e d c) u = .next w → w.vec e = s.vec a)

/-- LXRD's result for each selector, its frame and its completion (rules R15, R16, R112): SEL 0 to 2 into a matrix register, SEL 3
to 5 into a vector register, each written whole; MKEY ignores ARG_A. -/
def Obligations.LxrdResult : Prop :=
  (∀ (s : State) (d c : RegIdx), s.Shape → (Instr.lxrd d c .lin).wellFormed s.cfg = true → (s.ctx c).inst = true →
    (s.job.argA.toNat < (s.ctx c).par.r.toNat →
      (∃ t, exec (.lxrd d c .lin) s = .next t ∧ onlyMat d s t ∧ matRestClear d t ∧
        t.mat d = (s.ctx c).lin.getD s.job.argA.toNat .empty) ∧
      (∃ t, exec (.lxrd d c .invlin) s = .next t ∧ onlyMat d s t ∧ matRestClear d t ∧
        t.mat d = (s.ctx c).invlin.getD s.job.argA.toNat .empty)) ∧
    (s.job.argA.toNat ≤ (s.ctx c).par.r.toNat →
      ∃ t, exec (.lxrd d c .keym) s = .next t ∧ onlyMat d s t ∧ matRestClear d t ∧
        t.mat d = (s.ctx c).km.getD s.job.argA.toNat .empty)) ∧
  (∀ (s : State) (d c : RegIdx), s.Shape → (Instr.lxrd d c .rc).wellFormed s.cfg = true → (s.ctx c).inst = true →
    (s.job.argA.toNat < (s.ctx c).par.r.toNat →
      ∃ t, exec (.lxrd d c .rc) s = .next t ∧ onlyVec d s t ∧ vecRestClear d t ∧
        t.vec d = (s.ctx c).rc.getD s.job.argA.toNat []) ∧
    ((s.ctx c).keyed = true → s.job.argA.toNat ≤ (s.ctx c).par.r.toNat →
      ∃ t, exec (.lxrd d c .rk) s = .next t ∧ onlyVec d s t ∧ vecRestClear d t ∧
        t.vec d = (s.ctx c).rk.getD s.job.argA.toNat []) ∧
    ((s.ctx c).keyed = true →
      ∃ t, exec (.lxrd d c .mkey) s = .next t ∧ onlyVec d s t ∧ vecRestClear d t ∧
        t.vec d = (s.ctx c).mkey))

/-! ### Sharing and triples -/

/-- SHARE's result, its frame and its completion, once the TRNG has delivered `n - 1` bits (rules R113, R115, R119): party 1's
share is the secret plus the drawn bits, party i's is the drawn bit b_i, and the bits above `n` are cleared. -/
def Obligations.ShareResult : Prop :=
  ∀ (s : State) (d a : RegIdx) (k : Imm), s.Shape → (Instr.share d a k).wellFormed s.cfg = true → s.okParties = true →
    k.toNat < (s.vreg a).len → s.partyCount - 1 ≤ s.job.trngBits.length →
    ∃ t, exec (.share d a k) s = .next t ∧ onlyShare d s t ∧ (t.sreg d).cnt = s.partyCount ∧
      (t.sreg d).b.getLsbD 0 =
        xor ((s.vreg a).bits.getLsbD k.toNat) (parity (s.job.trngBits.take (s.partyCount - 1))) ∧
      (∀ i, 2 ≤ i → i ≤ s.partyCount → (t.sreg d).b.getLsbD (i - 1) = bitAt s.job.trngBits (i - 2)) ∧
      ∀ i, s.partyCount < i → (t.sreg d).b.getLsbD (i - 1) = false

/-- Rules R73 (a) and R113: with fewer bits than they need, SHARE and TGEN do not complete: the engine stays BUSY and nothing
changes. A bit that the TRNG gives is taken, once and after the bits before it, when the command in flight still needs bits.
Two things here are the model's, not rule R113's: that a bit which nothing requested is ignored (DESIGN CHOICE, log entry 18),
and the counter `trngUsed` of the bits taken (DESIGN CHOICE, log entry 4). -/
def Obligations.SharingWaitsForTheTrng : Prop :=
  (∀ (s : State) (d a : RegIdx) (k : Imm), (Instr.share d a k).wellFormed s.cfg = true → s.okParties = true →
    k.toNat < (s.vreg a).len → s.job.trngBits.length < s.partyCount - 1 → exec (.share d a k) s = .next s) ∧
  (∀ (s : State) (d : RegIdx), (Instr.tgen d).wellFormed s.cfg = true → s.okParties = true →
    s.job.trngBits.length < 2 + 3 * (s.partyCount - 1) → exec (.tgen d) s = .next s) ∧
  (∀ (s : State) (j : Job) (i : Instr) (b : Bool), s.phase = .running j → decode j.word = .ok i →
    (j.trngBits.length < trngNeed i s → s.envStep (.trng b) =
      .next { s with phase := .running { j with trngBits := j.trngBits ++ [b] }, trngUsed := s.trngUsed + 1 }) ∧
    (trngNeed i s ≤ j.trngBits.length → s.envStep (.trng b) = .next s))

/-- RECON's result, its frame and its completion (rules R15, R116, R120): bit `k` of `V[d]` is the XOR of the parties' shares;
the length and every other bit of `V[d]` stay. -/
def Obligations.ReconResult : Prop :=
  ∀ (s : State) (d a : RegIdx) (k : Imm), s.Shape → (Instr.recon d a k).wellFormed s.cfg = true → s.okParties = true →
    k.toNat < (s.vreg d).len → (s.sreg a).cnt = s.partyCount →
    ∃ t, exec (.recon d a k) s = .next t ∧ onlyVec d s t ∧ (t.vreg d).len = (s.vreg d).len ∧
      (t.vreg d).bits.getLsbD k.toNat =
        parity ((List.range s.partyCount).map fun i => (s.sreg a).b.getLsbD i) ∧
      ∀ j, j ≠ k.toNat → (t.vreg d).bits.getLsbD j = (s.vreg d).bits.getLsbD j

/-- Rule R116 by the commands: RECON of what SHARE gave is the shared bit, whatever bits the TRNG gave and for every valid
party count. -/
def Obligations.ShareThenReconGivesTheSecret : Prop :=
  ∀ (s t u w : State) (d e a : RegIdx) (k k' : Imm) (j : Job), s.Shape → (Instr.share d a k).wellFormed s.cfg = true →
    (Instr.recon e d k').wellFormed s.cfg = true → s.okParties = true → k.toNat < (s.vreg a).len →
    k'.toNat < (s.vreg e).len → s.partyCount - 1 ≤ s.job.trngBits.length → j.n = s.job.n →
    u = { t with phase := .running j } → exec (.share d a k) s = .next t → exec (.recon e d k') u = .next w →
    (w.vreg e).bits.getLsbD k'.toNat = (s.vreg a).bits.getLsbD k.toNat

/-- TGEN's result, its frame and its completion, once the TRNG has delivered `2 + 3·(n - 1)` bits (rules R117, R121): the triple
is valid, its count is `n`, its arrays are the sharings of a, b and a ∧ b by the bits in draw order, and so the reconstructed
C is the reconstructed A ∧ B. -/
def Obligations.TgenResult : Prop :=
  ∀ (s : State) (d : RegIdx), s.Shape → (Instr.tgen d).wellFormed s.cfg = true → s.okParties = true →
    2 + 3 * (s.partyCount - 1) ≤ s.job.trngBits.length →
    ∃ t, exec (.tgen d) s = .next t ∧ onlyTriple d s t ∧ (t.treg d).valid = true ∧ (t.treg d).cnt = s.partyCount ∧
      partyValue s.partyCount (t.treg d).a =
        shareOf (bitAt s.job.trngBits 0) ((s.job.trngBits.drop 2).take (s.partyCount - 1)) ∧
      partyValue s.partyCount (t.treg d).b =
        shareOf (bitAt s.job.trngBits 1) ((s.job.trngBits.drop (2 + (s.partyCount - 1))).take (s.partyCount - 1)) ∧
      partyValue s.partyCount (t.treg d).c =
        shareOf (bitAt s.job.trngBits 0 && bitAt s.job.trngBits 1)
          ((s.job.trngBits.drop (2 + 2 * (s.partyCount - 1))).take (s.partyCount - 1)) ∧
      (∀ i, s.partyCount ≤ i →
        (t.treg d).a.getLsbD i = false ∧ (t.treg d).b.getLsbD i = false ∧ (t.treg d).c.getLsbD i = false) ∧
      reconstruct (partyValue s.partyCount (t.treg d).c) =
        (reconstruct (partyValue s.partyCount (t.treg d).a) && reconstruct (partyValue s.partyCount (t.treg d).b))

/-! ### Gates -/

/-- GATE.AND's effect, its frame and its completion (rules R127, R129, R130, R132): the output shares, party by party, with the
correction at party 1 only; the view records, party by party; VPTR; and the triple used up. That the buffers of the parties
above `n`, which rule R129 does not write, read 0 at the record's places, and so grow by zeros in the model's lists, is DEDUCED
from rules R21 and R129 (log entry 11). -/
def Obligations.GateAndResult : Prop :=
  ∀ (s : State) (d x y k : RegIdx) (X Y A B C : Nat → Bool) (D E : Bool), s.Shape →
    (Instr.gateAnd d x y k).wellFormed s.cfg = true → s.okParties = true → (s.sreg x).cnt = s.partyCount →
    (s.sreg y).cnt = s.partyCount → (s.treg k).valid = true → (s.treg k).cnt = s.partyCount →
    s.vptr + 5 + 2 * s.partyCount ≤ s.cfg.vcap →
    X = (s.sreg x).b.getLsbD → Y = (s.sreg y).b.getLsbD → A = (s.treg k).a.getLsbD → B = (s.treg k).b.getLsbD →
    C = (s.treg k).c.getLsbD → D = parity ((List.range s.partyCount).map fun i => xor (X i) (A i)) →
    E = parity ((List.range s.partyCount).map fun i => xor (Y i) (B i)) →
    ∃ t, exec (.gateAnd d x y k) s = .next t ∧ onlyTripleGate d k s t ∧ (t.sreg d).cnt = s.partyCount ∧
      (∀ i, i < s.partyCount →
        (t.sreg d).b.getLsbD i =
          xor (xor (C i) (xor (X i && E) (Y i && D))) (decide (i = 0) && (D && E))) ∧
      (∀ i, s.partyCount ≤ i → (t.sreg d).b.getLsbD i = false) ∧
      t.vptr = s.vptr + 5 + 2 * s.partyCount ∧ t.views.length = s.views.length ∧
      (∀ p, p < s.partyCount →
        t.views.getD p [] = s.views.getD p [] ++ [A p, B p, C p, X p, Y p] ++
          ((List.range s.partyCount).map fun i => xor (X i) (A i)) ++
          ((List.range s.partyCount).map fun i => xor (Y i) (B i))) ∧
      ∀ p, s.partyCount ≤ p → p < s.cfg.pmax →
        t.views.getD p [] = s.views.getD p [] ++ List.replicate (5 + 2 * s.partyCount) false

/-- GATE.OR's effect, its frame and its completion (rules R128, R133): the output shares are the AND's plus the two inputs'; the
views, VPTR and the triple change exactly as GATE.AND on the same operands changes them. -/
def Obligations.GateOrResult : Prop :=
  ∀ (s : State) (d x y k : RegIdx), s.Shape → (Instr.gateOr d x y k).wellFormed s.cfg = true → s.okParties = true →
    (s.sreg x).cnt = s.partyCount → (s.sreg y).cnt = s.partyCount → (s.treg k).valid = true →
    (s.treg k).cnt = s.partyCount → s.vptr + 5 + 2 * s.partyCount ≤ s.cfg.vcap →
    ∃ t u, exec (.gateOr d x y k) s = .next t ∧ exec (.gateAnd d x y k) s = .next u ∧ onlyTripleGate d k s t ∧
      t.views = u.views ∧ t.vptr = u.vptr ∧ t.tr = u.tr ∧ (t.sreg d).cnt = s.partyCount ∧
      (∀ i, i < s.partyCount →
        (t.sreg d).b.getLsbD i =
          xor (xor ((u.sreg d).b.getLsbD i) ((s.sreg x).b.getLsbD i)) ((s.sreg y).b.getLsbD i)) ∧
      ∀ i, s.partyCount ≤ i → (t.sreg d).b.getLsbD i = false

/-- The results of the local gates, their frame and their completion: GATE.XOR (rules R124, R134), GATE.NOT with both values of
NOTALL (rules R125, R135) and GATE.ID (rules R126, R136). -/
def Obligations.LocalGateResult : Prop :=
  ∀ (s : State) (d x y : RegIdx), s.Shape → (Instr.gateXor d x y).wellFormed s.cfg = true → s.okParties = true →
    (s.sreg x).cnt = s.partyCount →
    ((s.sreg y).cnt = s.partyCount →
      ∃ t, exec (.gateXor d x y) s = .next t ∧ onlyShare d s t ∧ (t.sreg d).cnt = s.partyCount ∧
        ∀ i, (t.sreg d).b.getLsbD i =
          (decide (i < s.partyCount) && xor ((s.sreg x).b.getLsbD i) ((s.sreg y).b.getLsbD i))) ∧
    (∃ t, exec (.gateNot d x) s = .next t ∧ onlyShare d s t ∧ (t.sreg d).cnt = s.partyCount ∧
      ∀ i, (t.sreg d).b.getLsbD i =
        (decide (i < s.partyCount) && xor ((s.sreg x).b.getLsbD i) (s.job.notAll || decide (i = 0)))) ∧
    (∃ t, exec (.gateId d x) s = .next t ∧ onlyShare d s t ∧ (t.sreg d).cnt = s.partyCount ∧
      ∀ i, (t.sreg d).b.getLsbD i = (decide (i < s.partyCount) && (s.sreg x).b.getLsbD i))

/-- Rule R131, first on the share values of `n` parties, then on the output register after the command: the output reconstructs
to the gate's Boolean function of the reconstructed inputs, for AND and OR with a triple whose C reconstructs to A ∧ B, for
XOR and ID, for NOT with NOTALL = 0 always and with NOTALL = 1 for odd `n`. (Rule R168: with NOTALL = 1 and even `n` NOT's
output reconstructs to x.) -/
def Obligations.GateContract : Prop :=
  (∀ (n : Nat) (x y a b c : Vec), 2 ≤ n → x.length = n → y.length = n → a.length = n → b.length = n → c.length = n →
    (reconstruct c = (reconstruct a && reconstruct b) →
      reconstruct (gateAndOf x y a b c) = (reconstruct x && reconstruct y) ∧
      reconstruct (gateOrOf x y a b c) = (reconstruct x || reconstruct y)) ∧
    reconstruct (vecXor x y) = xor (reconstruct x) (reconstruct y) ∧
    reconstruct (gateNotOf false x) = !reconstruct x ∧
    (n % 2 = 1 → reconstruct (gateNotOf true x) = !reconstruct x) ∧
    (n % 2 = 0 → reconstruct (gateNotOf true x) = reconstruct x)) ∧
  (∀ (s : State) (d x y k : RegIdx) (n : Nat) (X Y : Bool), s.Shape → (Instr.gateAnd d x y k).wellFormed s.cfg = true →
    s.okParties = true → n = s.partyCount → (s.sreg x).cnt = n → X = reconstruct (s.share n x) →
    Y = reconstruct (s.share n y) →
    ((s.sreg y).cnt = n → (s.treg k).valid = true → (s.treg k).cnt = n → s.vptr + 5 + 2 * n ≤ s.cfg.vcap →
      reconstruct (s.tripleC n k) = (reconstruct (s.tripleA n k) && reconstruct (s.tripleB n k)) →
      (∃ t, exec (.gateAnd d x y k) s = .next t ∧ reconstruct (t.share n d) = (X && Y)) ∧
      (∃ t, exec (.gateOr d x y k) s = .next t ∧ reconstruct (t.share n d) = (X || Y))) ∧
    ((s.sreg y).cnt = n → ∃ t, exec (.gateXor d x y) s = .next t ∧ reconstruct (t.share n d) = xor X Y) ∧
    (∃ t, exec (.gateNot d x) s = .next t ∧
      ((s.job.notAll = false ∨ n % 2 = 1) → reconstruct (t.share n d) = !X) ∧
      (s.job.notAll = true → n % 2 = 0 → reconstruct (t.share n d) = X)) ∧
    (∃ t, exec (.gateId d x) s = .next t ∧ reconstruct (t.share n d) = X))

/-- Rules R130 and R164: after a GATE.AND or GATE.OR that used a triple register, a later one that names it fails with
TRIPLE_EXHAUSTED, whatever else was done in between that leaves the register alone. -/
def Obligations.TripleIsSingleUse : Prop :=
  ∀ (s t u : State) (d x y k d' x' y' : RegIdx), s.Shape → (Instr.gateAnd d x y k).wellFormed s.cfg = true →
    (exec (.gateAnd d x y k) s = .next t ∨ exec (.gateOr d x y k) s = .next t) → t.err = none →
    u.cfg = s.cfg → u.treg k = t.treg k → (Instr.gateAnd d' x' y' k).wellFormed u.cfg = true → u.okParties = true →
    exec (.gateAnd d' x' y' k) u = .next (u.failCommand .tripleExhausted) ∧
    exec (.gateOr d' x' y' k) u = .next (u.failCommand .tripleExhausted)

/-! ### The host interface -/

/-- Rule R71: what a CMD write does in each phase. -/
def Obligations.CommandAcceptance : Prop :=
  ∀ (s : State) (x : Word),
    (s.phase = .idle → s.err = none →
      s.memWrite 0x024 4 x = .next { s with
        phase := .running { word := x, argA := s.argA, argB := s.argB, n := s.parties, notAll := s.notAll,
                            cxp := s.cx.map (·.par), trngBits := [] }
        done := false }) ∧
    (s.phase = .idle → s.err ≠ none → s.memWrite 0x024 4 x = .next { s with drop := true }) ∧
    (∀ j, s.phase = .running j → s.memWrite 0x024 4 x = .next { s with drop := true }) ∧
    (s.phase = .clearing → s.memWrite 0x024 4 x = .next s)

/-- Rules R22, R28, R31 and R43: CTRL (with SRST = 0) outside the reset-clearing phase, a command in flight or not, and ARG,
PARTIES and WSEL with BUSY = 0 take exactly their fields of what is written, a write changes nothing else, and a read then
returns those fields. -/
def Obligations.ControlRegistersHoldWhatIsWritten : Prop :=
  (∀ (s : State) (x : Word), s.phase ≠ .clearing → x.getLsbD 31 = false →
    ∃ t u, s.memWrite 0x014 4 x = .next t ∧ t.memRead 0x014 4 = .next u ∧
      t = { s with ieDone := x.getLsbD 0, ieErr := x.getLsbD 1, notAll := x.getLsbD 2 } ∧ u.rdata = x &&& 0x00000007) ∧
  (∀ (s : State) (x : Word), s.phase = .idle →
    (∃ t u, s.memWrite 0x028 4 x = .next t ∧ t.memRead 0x028 4 = .next u ∧
      t = { s with argA := x.extractLsb' 0 11, argB := x.extractLsb' 16 11 } ∧ u.rdata = x &&& 0x07FF07FF) ∧
    (∃ t u, s.memWrite 0x030 4 x = .next t ∧ t.memRead 0x030 4 = .next u ∧
      t = { s with parties := x.extractLsb' 0 8 } ∧ u.rdata = x &&& 0x000000FF) ∧
    (∃ t u, s.memWrite 0x050 4 x = .next t ∧ t.memRead 0x050 4 = .next u ∧ t = { s with wsel := x } ∧ u.rdata = x))

/-- Rules R40 and R50: while a command is in flight, a write to CMD, ARG, PARTIES, WSEL, WDATA, WLEN, CXP0 or CXP1 is ignored
and sets DROP; a write to a read-only register or to an offset that names none changes nothing. -/
def Obligations.WritesWhileBusyAreDropped : Prop :=
  ∀ (s : State) (j : Job) (addr : Nat) (x : Word), s.phase = .running j → addr % 4 = 0 → addr < 0x1000 →
    addr ≠ 0x014 → addr ≠ 0x018 →
    s.memWrite addr 4 x =
      if addr ∈ [0x024, 0x028, 0x030, 0x050, 0x054, 0x058] ∨
          (0x100 ≤ addr ∧ (addr - 0x100) / 16 < s.cfg.nctx ∧ (addr % 16 = 0 ∨ addr % 16 = 4))
      then .next { s with drop := true } else .next s

/-- Rule R51: in the reset-clearing phase every host write is ignored, DROP included; a read of ID or CFG0 to CFG3 returns what it
returns of the idle block, a read of STATUS shows BUSY = 1, and a read of any other register returns 0. -/
def Obligations.ClearingPhaseIgnoresTheHost : Prop :=
  ∀ (s : State) (addr : Nat) (x : Word), s.phase = .clearing → addr % 4 = 0 → addr < 0x1000 →
    s.memWrite addr 4 x = .next s ∧
    (addr ∈ [0x000, 0x004, 0x008, 0x00C, 0x010] → ∃ t u, s.memRead addr 4 = .next t ∧
      ({ s with phase := .idle } : State).memRead addr 4 = .next u ∧ t = { s with rdata := u.rdata }) ∧
    (∃ t, s.memRead 0x018 4 = .next t ∧ t = { s with rdata := s.statusWord } ∧ t.rdata.getLsbD 0 = true) ∧
    (addr ∉ [0x000, 0x004, 0x008, 0x00C, 0x010, 0x018] → s.memRead addr 4 = .next { s with rdata := 0 })

/-- Rule R41: a read changes no state: only the output latch takes its value, and a read while a command is in flight may use
up one of the model's free values (log entries 3 and 5). Rules R76 and R160: at the end of a host program no step but a
hardware reset changes anything but the script, and the program stays at its end, so what the host reads back there stays. -/
def Obligations.ReadsHaveNoSideEffect : Prop :=
  (∀ (s t : State) (addr size : Nat), s.memRead addr size = .next t →
    t = { s with rdata := t.rdata, freeReads := t.freeReads } ∧
    ((∀ j, s.phase ≠ .running j) → t.freeReads = s.freeReads ∧ t.memRead addr size = .next t)) ∧
  (∀ s t : State, s.programEnd → step s = .next t →
    (∃ rest, s.env = .resetPin :: rest) ∨ (t = { s with env := t.env } ∧ t.programEnd))

/-- Rules R19, R21, R23 and R26: no host write changes the triples, the views, VPTR, the generator, RESULT, RETRIES or the
parameters, unless it is the soft reset. -/
def Obligations.HostCannotWriteProtectedState : Prop :=
  ∀ (s t : State) (addr size : Nat) (x : Word), s.memWrite addr size x = .next t →
    (t.tr = s.tr ∧ t.views = s.views ∧ t.vptr = s.vptr ∧ t.lfsr = s.lfsr ∧ t.result = s.result ∧ t.retries = s.retries ∧
      t.cfg = s.cfg) ∨
    (addr = 0x014 ∧ x.getLsbD 31 = true ∧ t = s.hardReset)

/-- Rules R28, R157, R158 and R159: `rst_n` in every phase, and the soft reset in every phase in which it acts, give the same
state: every element of the block at the value of rule R159's table, no command in flight, and the reset-clearing phase begun;
the engine's turn then ends the phase (DESIGN CHOICE, log entry 6). The script, the read latch and the two counters are no
state of the block and stay (DESIGN CHOICE, log entry 19). -/
def Obligations.ResetSourcesAgree : Prop :=
  ∀ (s : State) (x : Word), x.getLsbD 31 = true → ∃ t, s.envStep .resetPin = .next t ∧
    (s.phase ≠ .clearing → s.memWrite 0x014 4 x = .next t) ∧
    t = { State.resetOf s.cfg with env := s.env, rdata := s.rdata, trngUsed := s.trngUsed, freeReads := s.freeReads } ∧
    t = { s with
      v := List.replicate s.cfg.nv { len := 0, bits := 0 }
      m := List.replicate s.cfg.nm { rows := 0, cols := 0, bits := List.replicate s.cfg.dmax 0 }
      sh := List.replicate s.cfg.ns { cnt := 0, b := 0 }
      tr := List.replicate s.cfg.nt { valid := false, cnt := 0, a := 0, b := 0, c := 0 }
      views := List.replicate s.cfg.pmax []
      vptr := 0
      parties := 0
      lfsr := { s := BitVec.allOnes 80, init := false }
      cx := List.replicate s.cfg.nctx
        { par := { bs := 0, ks := 0, m := 0, r := 0 }, inst := false, keyed := false, lin := [], invlin := [], rc := [],
          km := [], mkey := [], rk := [] }
      result := 0
      retries := 0
      argA := 0
      argB := 0
      ieDone := false
      ieErr := false
      notAll := false
      done := false
      drop := false
      err := none
      errCmd := 0
      wsel := 0
      phase := .clearing } ∧
    t.busy = true ∧ t.turnStep = .next { t with phase := .idle } ∧ ({ t with phase := .idle } : State).busy = false

/-- Rules R27 and R159: what the host reads of every register of a block with valid parameters right after the reset-clearing
phase. -/
def Obligations.ResetValuesRead : Prop :=
  ∀ p : Params, p.valid →
    (∀ off ∈ [0x014, 0x018, 0x01C, 0x020, 0x024, 0x028, 0x02C, 0x030, 0x034, 0x038, 0x050, 0x054, 0x058],
      ∃ t, (State.resetOf p).endClearing.memRead off 4 = .next t ∧ t.rdata = 0) ∧
    (∀ c off, c < p.nctx → off ∈ [0x100, 0x104, 0x108] →
      ∃ t, (State.resetOf p).endClearing.memRead (off + 16 * c) 4 = .next t ∧ t.rdata = 0) ∧
    (∃ t, (State.resetOf p).endClearing.memRead 0x000 4 = .next t ∧ t.rdata = 0x4E504301) ∧
    readsAs (State.resetOf p).endClearing 0x004 (p.dmax + 2 ^ 16 * p.pmax) ∧
    readsAs (State.resetOf p).endClearing 0x008 (p.nv + 2 ^ 8 * p.nm + 2 ^ 16 * p.ns + 2 ^ 24 * p.nt) ∧
    readsAs (State.resetOf p).endClearing 0x00C (p.nctx + 2 ^ 16 * p.rmax) ∧
    readsAs (State.resetOf p).endClearing 0x010 p.vcap ∧
    (∃ t, (State.resetOf p).endClearing.memRead 0x040 4 = .next t ∧ t.rdata = 0xFFFFFFFF) ∧
    (∃ t, (State.resetOf p).endClearing.memRead 0x044 4 = .next t ∧ t.rdata = 0xFFFFFFFF) ∧
    (∃ t, (State.resetOf p).endClearing.memRead 0x048 4 = .next t ∧ t.rdata = 0x0000FFFF)

/-- What a host read returns: rules R21 to R31, R39, R40, R50 and R139, register by register, with a command in flight or not;
rules R43, R44, R47 and R48, the word that WSEL selects of a file or of a view, storage bits above a length included; 0 where
WSEL selects no valid word. (STATUS stands in StatusRegister, WLEN in WlenWriteSetsMetadata, the reset-clearing phase in
ClearingPhaseIgnoresTheHost.) -/
def Obligations.HostReadsReturnStoredValues : Prop :=
  (∀ s : State, s.Shape → s.phase ≠ .clearing →
    readsAs s 0x000 0x4E504301 ∧
    readsAs s 0x004 (s.cfg.dmax + 2 ^ 16 * s.cfg.pmax) ∧
    readsAs s 0x008 (s.cfg.nv + 2 ^ 8 * s.cfg.nm + 2 ^ 16 * s.cfg.ns + 2 ^ 24 * s.cfg.nt) ∧
    readsAs s 0x00C (s.cfg.nctx + 2 ^ 16 * s.cfg.rmax) ∧
    readsAs s 0x010 s.cfg.vcap ∧
    readsAs s 0x014 (s.ieDone.toNat + 2 * s.ieErr.toNat + 4 * s.notAll.toNat) ∧
    (∀ n, readsAs s 0x01C n ↔
      (n = 0 ∧ s.err = none) ∨ (n = 1 ∧ s.err = some .invalidParameters) ∨ (n = 2 ∧ s.err = some .singularMatrix) ∨
      (n = 3 ∧ s.err = some .unsupportedGateOperation) ∨ (n = 4 ∧ s.err = some .tripleExhausted) ∨
      (n = 5 ∧ s.err = some .illegalCommand) ∨ (n = 6 ∧ s.err = some .notReady) ∨
      (n = 7 ∧ s.err = some .viewOverflow)) ∧
    readsAs s 0x020 s.errCmd.toNat ∧
    readsAs s 0x024 0 ∧
    readsAs s 0x028 (s.argA.toNat + 2 ^ 16 * s.argB.toNat) ∧
    readsAs s 0x02C s.result.toNat ∧
    readsAs s 0x030 s.parties.toNat ∧
    readsAs s 0x034 s.vptr ∧
    readsAs s 0x050 s.wsel.toNat ∧
    (∀ c x, s.cx[c]? = some x →
      readsAs s (0x100 + 16 * c) (x.par.bs.toNat + 2 ^ 16 * x.par.ks.toNat) ∧
      readsAs s (0x104 + 16 * c) (x.par.m.toNat + 2 ^ 16 * x.par.r.toNat) ∧
      readsAs s (0x108 + 16 * c) (x.inst.toNat + 2 * x.keyed.toNat)) ∧
    (∀ off, off % 4 = 0 → off < 0x1000 →
      off ∉ [0x000, 0x004, 0x008, 0x00C, 0x010, 0x014, 0x018, 0x01C, 0x020, 0x024, 0x028, 0x02C, 0x030, 0x034, 0x038, 0x040,
        0x044, 0x048, 0x050, 0x054, 0x058] →
      ¬ (0x100 ≤ off ∧ (off - 0x100) / 16 < s.cfg.nctx ∧ off % 16 ≠ 12) → readsAs s off 0)) ∧
  (∀ s : State, s.phase = .idle →
    readsAs s 0x038 s.retries.toNat ∧
    readsBits s 0x040 (fun k => s.lfsr.s.getLsbD k) ∧
    readsBits s 0x044 (fun k => s.lfsr.s.getLsbD (32 + k)) ∧
    readsBits s 0x048 (fun k => (decide (k < 16) && s.lfsr.s.getLsbD (64 + k)) || (decide (k = 31) && s.lfsr.init))) ∧
  (∀ s : State,
    (∀ i, s.winSel = some (.v i) ↔ s.wsel.toNat / 2 ^ 28 = 0 ∧ s.wsel.toNat / 2 ^ 20 % 2 ^ 8 = i ∧ i < s.cfg.nv) ∧
    (∀ i, s.winSel = some (.m i) ↔ s.wsel.toNat / 2 ^ 28 = 1 ∧ s.wsel.toNat / 2 ^ 20 % 2 ^ 8 = i ∧ i < s.cfg.nm) ∧
    (∀ i, s.winSel = some (.s i) ↔ s.wsel.toNat / 2 ^ 28 = 2 ∧ s.wsel.toNat / 2 ^ 20 % 2 ^ 8 = i ∧ i < s.cfg.ns) ∧
    (∀ i, s.winSel = some (.t i) ↔ s.wsel.toNat / 2 ^ 28 = 3 ∧ s.wsel.toNat / 2 ^ 20 % 2 ^ 8 = i ∧ i < s.cfg.nt) ∧
    (∀ p, s.winSel = some (.view p) ↔
      s.wsel.toNat / 2 ^ 28 = 4 ∧ s.wsel.toNat / 2 ^ 20 % 2 ^ 8 = p ∧ 1 ≤ p ∧ p ≤ s.cfg.pmax) ∧
    s.winIdx = s.wsel.toNat % 2 ^ 20 ∧ s.winRow = s.wsel.toNat / 2 ^ 8 % 2 ^ 12 ∧ s.winCol = s.wsel.toNat % 2 ^ 8) ∧
  (∀ s : State, s.Shape → s.phase = .idle →
    (∀ i, s.winSel = some (.v i) → s.winIdx < wordsFor s.cfg.dmax →
      readsBits s 0x054 fun k => decide (32 * s.winIdx + k < s.cfg.dmax) &&
        (s.v.getD i .empty).bits.getLsbD (32 * s.winIdx + k)) ∧
    (∀ i, s.winSel = some (.m i) → s.winRow < s.cfg.dmax → s.winCol < wordsFor s.cfg.dmax →
      readsBits s 0x054 fun k => decide (32 * s.winCol + k < s.cfg.dmax) &&
        ((s.m.getD i (.empty s.cfg)).bits.getD s.winRow 0).getLsbD (32 * s.winCol + k)) ∧
    (∀ i, s.winSel = some (.s i) → s.winIdx < wordsFor (s.cfg.pmax + 1) →
      readsBits s 0x054 fun k => decide (32 * s.winIdx + k ≤ s.cfg.pmax) && decide (32 * s.winIdx + k ≠ 0) &&
        (s.sh.getD i .empty).b.getLsbD (32 * s.winIdx + k - 1)) ∧
    (∀ i bits, s.winSel = some (.t i) → s.winCol < wordsFor (s.cfg.pmax + 1) →
      ((s.winRow = 0 ∧ bits = (s.tr.getD i .empty).a) ∨ (s.winRow = 1 ∧ bits = (s.tr.getD i .empty).b) ∨
        (s.winRow = 2 ∧ bits = (s.tr.getD i .empty).c)) →
      readsBits s 0x054 fun k => decide (32 * s.winCol + k ≤ s.cfg.pmax) && decide (32 * s.winCol + k ≠ 0) &&
        bits.getLsbD (32 * s.winCol + k - 1)) ∧
    (∀ p, s.winSel = some (.view p) → s.winIdx < wordsFor s.cfg.vcap →
      readsBits s 0x054 fun k => bitAt (s.views.getD (p - 1) []) (32 * s.winIdx + k)) ∧
    (s.noWindowWord → readsAs s 0x054 0))

/-- Rules R29, R143, R146 and R147: outside the reset-clearing phase a STATUS write clears DONE, DROP and, with ERRCLR, ERR and
ERRCMD, each exactly where its bit is 1, and changes nothing else. In every phase a STATUS read shows BUSY, DONE, DROP and
`(IE_DONE ∧ DONE) ∨ (IE_ERR ∧ ERR.CODE ≠ 0)`, the level of irq, and no other bit. -/
def Obligations.StatusRegister : Prop :=
  (∀ (s : State) (x : Word), s.phase ≠ .clearing →
    s.memWrite 0x018 4 x = .next { s with
      done := s.done && !x.getLsbD 1
      drop := s.drop && !x.getLsbD 2
      err := if x.getLsbD 31 then none else s.err
      errCmd := if x.getLsbD 31 then 0 else s.errCmd }) ∧
  (∀ s : State, ∃ t, s.memRead 0x018 4 = .next t ∧
    (t.rdata.getLsbD 0 = true ↔ s.phase ≠ .idle) ∧ t.rdata.getLsbD 1 = s.done ∧ t.rdata.getLsbD 2 = s.drop ∧
    t.rdata.getLsbD 3 = s.irq ∧
    (s.irq = true ↔ (s.ieDone = true ∧ s.done = true) ∨ (s.ieErr = true ∧ s.err ≠ none)) ∧
    ∀ k, 4 ≤ k → t.rdata.getLsbD k = false)

/-- Rules R25 and R166: a write of CXP0 or CXP1 with BUSY = 0 stores its two fields and clears INST and KEYED of that context,
even when the value is the old one; no other context changes. -/
def Obligations.CxpWriteInvalidates : Prop :=
  ∀ (s : State) (c : Nat) (x : Word), s.Shape → s.phase = .idle → c < s.cfg.nctx →
    (∃ t, s.memWrite (0x100 + 16 * c) 4 x = .next t ∧ t = { s with cx := t.cx } ∧
      t.cx[c]? = (s.cx[c]?).map (fun k => { k with
        par := { k.par with bs := x.extractLsb' 0 11, ks := x.extractLsb' 16 11 }, inst := false, keyed := false }) ∧
      ∀ i, i ≠ c → t.cx[i]? = s.cx[i]?) ∧
    (∃ t, s.memWrite (0x104 + 16 * c) 4 x = .next t ∧ t = { s with cx := t.cx } ∧
      t.cx[c]? = (s.cx[c]?).map (fun k => { k with
        par := { k.par with m := x.extractLsb' 0 10, r := x.extractLsb' 16 10 }, inst := false, keyed := false }) ∧
      ∀ i, i ≠ c → t.cx[i]? = s.cx[i]?)

/-- Rules R12, R17, R44, R45, R47 and R48: with a valid selection, a WDATA write of a word of `V[i]`, of row `r` of `M[i]` or of
`S[i]` stores bit `k` of the data in element `32·w + k` where that element exists, and changes no other element, no other
register and no length; a WDATA read then returns what stands there. Element 0 of a share array reads 0 and ignores writes.
A WDATA write with T, VIEW or no valid word selected changes nothing. -/
def Obligations.WindowWordTakesTheData : Prop :=
  ∀ (s : State) (i : Nat) (x : Word), s.Shape → s.phase = .idle →
    (s.winSel = some (.v i) → s.winIdx < wordsFor s.cfg.dmax →
      ∃ t u, s.memWrite 0x054 4 x = .next t ∧ t.memRead 0x054 4 = .next u ∧ t = { s with v := t.v } ∧
        (∀ k, k < 32 → u.rdata.getLsbD k = (decide (32 * s.winIdx + k < s.cfg.dmax) && x.getLsbD k)) ∧
        (∀ k, k < 32 → (t.v.getD i .empty).bits.getLsbD (32 * s.winIdx + k) =
          (decide (32 * s.winIdx + k < s.cfg.dmax) && x.getLsbD k)) ∧
        (∀ q, q ≠ i → t.v[q]? = s.v[q]?) ∧ (t.v.getD i .empty).len = (s.v.getD i .empty).len ∧
        ∀ j, (j < 32 * s.winIdx ∨ 32 * s.winIdx + 32 ≤ j) →
          (t.v.getD i .empty).bits.getLsbD j = (s.v.getD i .empty).bits.getLsbD j) ∧
    (s.winSel = some (.m i) → s.winRow < s.cfg.dmax → s.winCol < wordsFor s.cfg.dmax →
      ∃ t u, s.memWrite 0x054 4 x = .next t ∧ t.memRead 0x054 4 = .next u ∧ t = { s with m := t.m } ∧
        (∀ k, k < 32 → u.rdata.getLsbD k = (decide (32 * s.winCol + k < s.cfg.dmax) && x.getLsbD k)) ∧
        (∀ k, k < 32 → ((t.m.getD i (.empty s.cfg)).bits.getD s.winRow 0).getLsbD (32 * s.winCol + k) =
          (decide (32 * s.winCol + k < s.cfg.dmax) && x.getLsbD k)) ∧
        (∀ q, q ≠ i → t.m[q]? = s.m[q]?) ∧
        (t.m.getD i (.empty s.cfg)).rows = (s.m.getD i (.empty s.cfg)).rows ∧
        (t.m.getD i (.empty s.cfg)).cols = (s.m.getD i (.empty s.cfg)).cols ∧
        ∀ r j, (r ≠ s.winRow ∨ j < 32 * s.winCol ∨ 32 * s.winCol + 32 ≤ j) →
          ((t.m.getD i (.empty s.cfg)).bits.getD r 0).getLsbD j =
            ((s.m.getD i (.empty s.cfg)).bits.getD r 0).getLsbD j) ∧
    (s.winSel = some (.s i) → s.winIdx < wordsFor (s.cfg.pmax + 1) →
      ∃ t u, s.memWrite 0x054 4 x = .next t ∧ t.memRead 0x054 4 = .next u ∧ t = { s with sh := t.sh } ∧
        (∀ k, k < 32 → u.rdata.getLsbD k =
          (decide (32 * s.winIdx + k ≤ s.cfg.pmax) && decide (32 * s.winIdx + k ≠ 0) && x.getLsbD k)) ∧
        (∀ k, k < 32 → 1 ≤ 32 * s.winIdx + k → (t.sh.getD i .empty).b.getLsbD (32 * s.winIdx + k - 1) =
          (decide (32 * s.winIdx + k ≤ s.cfg.pmax) && x.getLsbD k)) ∧
        (∀ q, q ≠ i → t.sh[q]? = s.sh[q]?) ∧ (t.sh.getD i .empty).cnt = (s.sh.getD i .empty).cnt ∧
        ∀ p, 1 ≤ p → (p < 32 * s.winIdx ∨ 32 * s.winIdx + 32 ≤ p) →
          (t.sh.getD i .empty).b.getLsbD (p - 1) = (s.sh.getD i .empty).b.getLsbD (p - 1)) ∧
    (s.noWindowWord ∨ (∃ k, s.winSel = some (.t k)) ∨ (∃ p, s.winSel = some (.view p)) →
      s.memWrite 0x054 4 x = .next s)

/-- Rule R46: a WLEN write sets the metadata of the selected vector, matrix or share register when it is in its bound and is
ignored as a whole when it is not; storage bits do not change. A WLEN read returns the metadata of the selected register:
len of V, rows and cols of M, cnt of S, cnt and valid of T, VPTR for a view, and 0 with no register selected. -/
def Obligations.WlenWriteSetsMetadata : Prop :=
  ∀ (s : State) (i : Nat) (x : Word), s.Shape → s.phase = .idle →
    (s.winSel = some (.v i) →
      s.memWrite 0x058 4 x = .next (if (x.extractLsb' 0 11).toNat ≤ s.cfg.dmax then
        { s with v := s.v.set i { s.v.getD i .empty with len := (x.extractLsb' 0 11).toNat } } else s)) ∧
    (s.winSel = some (.m i) →
      s.memWrite 0x058 4 x =
        .next (if (x.extractLsb' 0 11).toNat ≤ s.cfg.dmax ∧ (x.extractLsb' 16 11).toNat ≤ s.cfg.dmax then
          { s with m := s.m.set i { s.m.getD i (.empty s.cfg) with
              rows := (x.extractLsb' 0 11).toNat, cols := (x.extractLsb' 16 11).toNat } }
        else s)) ∧
    (s.winSel = some (.s i) →
      s.memWrite 0x058 4 x = .next (if (x.extractLsb' 0 8).toNat ≤ s.cfg.pmax then
        { s with sh := s.sh.set i { s.sh.getD i .empty with cnt := (x.extractLsb' 0 8).toNat } } else s)) ∧
    ((∃ k, s.winSel = some (.t k)) ∨ (∃ p, s.winSel = some (.view p)) ∨ s.winSel = none → s.memWrite 0x058 4 x = .next s) ∧
    (s.winSel = some (.v i) → readsAs s 0x058 (s.v.getD i .empty).len) ∧
    (s.winSel = some (.m i) →
      readsAs s 0x058 ((s.m.getD i (.empty s.cfg)).rows + 2 ^ 16 * (s.m.getD i (.empty s.cfg)).cols)) ∧
    (s.winSel = some (.s i) → readsAs s 0x058 (s.sh.getD i .empty).cnt) ∧
    (s.winSel = some (.t i) → readsAs s 0x058 ((s.tr.getD i .empty).cnt + 2 ^ 31 * (s.tr.getD i .empty).valid.toNat)) ∧
    (s.winSel = some (.view i) → readsAs s 0x058 s.vptr) ∧
    (s.winSel = none → readsAs s 0x058 0)

/-! ### Invariants -/

/-- Every configuration leaves reset with every invariant of rule R35, and the reference configuration is a valid one. -/
def Obligations.ResetMeetsTheInvariants : Prop :=
  (∀ p : Params, p.valid → (State.resetOf p).Shape ∧ (State.resetOf p).Ranks ∧ (State.resetOf p).GeneratorAlive) ∧
  State.reset = State.resetOf .ref ∧ Params.ref.valid

/-- Every step keeps the sizes of rules R13 to R24 and items 1 to 5 of rule R35. -/
def Obligations.StepKeepsShape : Prop :=
  ∀ s t : State, s.Shape → step s = .next t → t.Shape

/-- Every step keeps item 6 of rule R35: every linear layer has full rank, INVLIN holds its inverse by rule R83, every key
matrix has rank at least `min(bs, ks)`. -/
def Obligations.StepKeepsRanks : Prop :=
  ∀ s t : State, s.Shape → s.Ranks → step s = .next t → t.Ranks

/-- Every step keeps item 7 of rule R35: the generator's register is never all zeros. -/
def Obligations.StepKeepsGeneratorAlive : Prop :=
  ∀ s t : State, s.GeneratorAlive → step s = .next t → t.GeneratorAlive

/-- No step changes the parameters (rules R6, R13), and no step gives a true-random bit back: the count of the bits used
never falls, so none is used twice (rules R34, R113). -/
def Obligations.StepKeepsParametersAndTrngCount : Prop :=
  ∀ s t : State, step s = .next t → t.cfg = s.cfg ∧ s.trngUsed ≤ t.trngUsed
end

