-- ==== Sys2Proof/Laws/Bits.lean ====
section
/-! SUPPORT. The laws of vector values and storage strings (Machine/Bits.lean). -/

namespace Sys2Proof.Machine

@[simp] theorem length_vecXor (u w : Vec) : (vecXor u w).length = min u.length w.length := by
  simp [vecXor]

@[simp] theorem length_vecAnd (u w : Vec) : (vecAnd u w).length = min u.length w.length := by
  simp [vecAnd]

@[simp] theorem length_valueOf {n : Nat} (len : Nat) (b : BitVec n) : (valueOf len b).length = len := by
  simp [valueOf]

theorem bitAt_of_le {v : Vec} {i : Nat} (h : v.length ≤ i) : bitAt v i = false := by
  simp [bitAt, List.getElem?_eq_none h]

theorem bitAt_of_lt {v : Vec} {i : Nat} (h : i < v.length) : bitAt v i = v[i] := by
  simp [bitAt, h]

@[simp] theorem bitAt_nil (i : Nat) : bitAt [] i = false := rfl
@[simp] theorem bitAt_cons_zero (b : Bool) (v : Vec) : bitAt (b :: v) 0 = b := rfl
@[simp] theorem bitAt_cons_succ (b : Bool) (v : Vec) (i : Nat) : bitAt (b :: v) (i + 1) = bitAt v i := rfl

theorem bitAt_valueOf {n : Nat} (len : Nat) (b : BitVec n) (j : Nat) :
    bitAt (valueOf len b) j = (decide (j < len) && b.getLsbD j) := by
  by_cases h : j < len
  · simp [bitAt, valueOf, h]
  · simp [bitAt, valueOf, h]

theorem bitAt_vecXor {u w : Vec} (h : u.length = w.length) (j : Nat) :
    bitAt (vecXor u w) j = xor (bitAt u j) (bitAt w j) := by
  by_cases hj : j < u.length
  · simp [bitAt, vecXor, hj, ← h]
  · have hu : u.length ≤ j := by omega
    have hw : w.length ≤ j := by omega
    have hx : (vecXor u w).length ≤ j := by simp; omega
    simp [bitAt_of_le hu, bitAt_of_le hw, bitAt_of_le hx]

theorem bitAt_vecAnd (u w : Vec) (j : Nat) : bitAt (vecAnd u w) j = (bitAt u j && bitAt w j) := by
  by_cases hu : j < u.length
  · by_cases hw : j < w.length
    · simp [bitAt, vecAnd, hu, hw]
    · have hw' : w.length ≤ j := by omega
      have hx : (vecAnd u w).length ≤ j := by simp; omega
      simp [bitAt_of_le hw', bitAt_of_le hx]
  · have hu' : u.length ≤ j := by omega
    have hx : (vecAnd u w).length ≤ j := by simp; omega
    simp [bitAt_of_le hu', bitAt_of_le hx]

/-- Two vectors of one length with the same bits are the same vector. -/
theorem vec_ext {u w : Vec} (h : u.length = w.length) (hb : ∀ j, j < u.length → bitAt u j = bitAt w j) : u = w := by
  apply List.ext_getElem h
  intro i h1 h2
  simpa [bitAt_of_lt h1, bitAt_of_lt h2] using hb i h1

theorem testBit_natOfBits (v : Vec) (j : Nat) : (natOfBits v).testBit j = bitAt v j := by
  induction v generalizing j with
  | nil => simp [natOfBits]
  | cons b v ih =>
    cases j with
    | zero => cases b <;> simp [natOfBits, Nat.testBit_zero, Nat.add_mod]
    | succ j =>
      have h : (b.toNat + 2 * natOfBits v) / 2 = natOfBits v := by cases b <;> simp; omega
      simp [natOfBits, Nat.testBit_succ, h, ih]

theorem natOfBits_lt (v : Vec) : natOfBits v < 2 ^ v.length := by
  induction v with
  | nil => simp [natOfBits]
  | cons b v ih =>
    have hb : b.toNat ≤ 1 := by cases b <;> simp
    simp only [natOfBits, List.length_cons, Nat.pow_succ]
    omega

/-- What a stored value's bits are: the value's below its length, 0 above. -/
theorem getLsbD_storeOf (n : Nat) (v : Vec) (j : Nat) :
    (storeOf n v).getLsbD j = (decide (j < n) && bitAt v j) := by
  simp [storeOf, BitVec.getLsbD_ofNat, testBit_natOfBits]

theorem toNat_storeOf_lt {n k : Nat} {v : Vec} (h : v.length ≤ k) : (storeOf n v).toNat < 2 ^ k := by
  simp only [storeOf, BitVec.toNat_ofNat]
  calc natOfBits v % 2 ^ n ≤ natOfBits v := Nat.mod_le _ _
    _ < 2 ^ v.length := natOfBits_lt v
    _ ≤ 2 ^ k := Nat.pow_le_pow_right (by omega) h

/-- A value that fits its storage reads back as it was stored. -/
theorem valueOf_storeOf {n : Nat} {v : Vec} (h : v.length ≤ n) : valueOf v.length (storeOf n v) = v := by
  apply vec_ext (by simp)
  intro j hj
  have hj' : j < v.length := by simpa using hj
  have : j < n := by omega
  rw [bitAt_valueOf, getLsbD_storeOf]
  simp [hj', this]

theorem toNat_cutTo_lt {n size : Nat} (b : BitVec n) : (cutTo size b).toNat < 2 ^ size := by
  have hp : 0 < 2 ^ size := Nat.two_pow_pos size
  have h : (2 ^ size - 1) % 2 ^ n ≤ 2 ^ size - 1 := Nat.mod_le _ _
  have h2 : b.toNat &&& ((2 ^ size - 1) % 2 ^ n) ≤ (2 ^ size - 1) % 2 ^ n := Nat.and_le_right
  simp only [cutTo, BitVec.toNat_and, BitVec.toNat_ofNat]
  omega

theorem getLsbD_cutTo {n size : Nat} (b : BitVec n) (j : Nat) :
    (cutTo size b).getLsbD j = (decide (j < size) && b.getLsbD j) := by
  by_cases hj : j < n
  · rw [cutTo, BitVec.getLsbD_and, BitVec.getLsbD_ofNat, Nat.testBit_two_pow_sub_one]
    simp only [hj, decide_true, Bool.true_and, Bool.and_comm]
  · simp [BitVec.getLsbD_of_ge _ _ (Nat.le_of_not_lt hj)]

set_option linter.unusedSimpArgs false in
/-- What a string holds after one bit was replaced (rule R15). -/
theorem getLsbD_putBit {n : Nat} (k : Nat) (b : Bool) (x : BitVec n) (j : Nat) :
    (putBit k b x).getLsbD j = if j = k ∧ k < n then b else x.getLsbD j := by
  by_cases hj : j < n
  · by_cases hk : j = k
    · subst hk
      cases b <;>
        simp only [putBit, BitVec.getLsbD_or, BitVec.getLsbD_and, BitVec.getLsbD_not, BitVec.getLsbD_twoPow] <;> simp [hj]
    · have hk' : ¬ k = j := fun h => hk h.symm
      cases b <;>
        simp only [putBit, BitVec.getLsbD_or, BitVec.getLsbD_and, BitVec.getLsbD_not, BitVec.getLsbD_twoPow] <;>
        simp [hj, hk, hk']
  · have h : ¬ (j = k ∧ k < n) := by omega
    simp [h, BitVec.getLsbD_of_ge _ _ (Nat.le_of_not_lt hj)]

/-- What word `w` of a string holds (rule R48). -/
theorem getLsbD_wordOf {n : Nat} (b : BitVec n) (w k : Nat) :
    (wordOf b w).getLsbD k = (decide (k < 32) && b.getLsbD (32 * w + k)) := by
  simp [wordOf, BitVec.getLsbD_extractLsb']

/-- What a string holds after word `w` was written (rule R45). -/
theorem getLsbD_putWord {n : Nat} (b : BitVec n) (w : Nat) (x : Word) (j : Nat) :
    (putWord b w x).getLsbD j =
      if j < n ∧ 32 * w ≤ j ∧ j < 32 * w + 32 then x.getLsbD (j - 32 * w) else b.getLsbD j := by
  simp only [putWord, BitVec.getLsbD_or, BitVec.getLsbD_and, BitVec.getLsbD_not, BitVec.getLsbD_shiftLeft,
    BitVec.getLsbD_setWidth, BitVec.getLsbD_allOnes]
  by_cases hj : j < n
  · by_cases h1 : j < 32 * w
    · have h2 : ¬ 32 * w ≤ j := by omega
      simp only [hj, h1, h2]
      simp
    · have h1' : 32 * w ≤ j := by omega
      have h4 : j - 32 * w < n := by omega
      by_cases h2 : j < 32 * w + 32
      · have h3 : j - 32 * w < 32 := by omega
        simp only [hj, h1, h1', h2, h3, h4]
        simp
      · have h3 : ¬ j - 32 * w < 32 := by omega
        have h5 : x.getLsbD (j - 32 * w) = false := BitVec.getLsbD_of_ge _ _ (Nat.le_of_not_lt h3)
        simp only [hj, h1, h1', h2, h3, h4, h5]
        simp
  · have h : b.getLsbD j = false := BitVec.getLsbD_of_ge _ _ (Nat.le_of_not_lt hj)
    simp only [hj, h]
    simp

/-- Element 0 of a share array reads 0 and element `i` is party `i`'s bit (rules R12, R17). -/
theorem getLsbD_partyString (b : PartyBits) (i : Nat) :
    (partyString b).getLsbD i = (decide (i ≠ 0) && b.getLsbD (i - 1)) := by
  rw [partyString, BitVec.getLsbD_append]
  cases i with
  | zero => rfl
  | succ i => simp

/-- Party `i + 1`'s bit of a share array as the host writes it (rule R17). -/
theorem getLsbD_partyBitsOf (x : BitVec 256) (i : Nat) :
    (partyBitsOf x).getLsbD i = (decide (i < 255) && x.getLsbD (1 + i)) := by
  rw [partyBitsOf, BitVec.getLsbD_extractLsb']

@[simp] theorem parity_nil : parity [] = false := rfl
@[simp] theorem parity_cons (b : Bool) (v : Vec) : parity (b :: v) = xor b (parity v) := rfl

/-- The parity of a sum is the sum of the parities (rule R10). -/
theorem parity_vecXor {u w : Vec} (h : u.length = w.length) : parity (vecXor u w) = xor (parity u) (parity w) := by
  induction u generalizing w with
  | nil => cases w <;> simp_all [vecXor]
  | cons a u ih =>
    cases w with
    | nil => simp at h
    | cons b w =>
      have := ih (w := w) (by simpa using h)
      simp only [vecXor, List.zipWith_cons_cons, parity_cons] at this ⊢
      rw [this]
      cases a <;> cases b <;> cases parity u <;> cases parity w <;> rfl

end Sys2Proof.Machine
end

