-- ==== Sys2Proof/Laws/Gf2.lean ====
section
/-! SUPPORT. The sizes of what the GF(2) and LowMC functions give, and the sizes of what is drawn. -/

namespace Sys2Proof.Machine

@[simp] theorem length_matVecMul (A : Mat) (v : Vec) : (matVecMul A v).length = A.row.length := by
  simp [matVecMul]

@[simp] theorem length_identityRows (n : Nat) : (identityRows n).length = n := by
  simp [identityRows]

theorem length_of_mem_identityRows {n : Nat} {w : Vec} (h : w ∈ identityRows n) : w.length = n := by
  simp only [identityRows, List.mem_map] at h
  obtain ⟨r, -, rfl⟩ := h
  simp

@[simp] theorem length_swapRows (W : List Vec) (p q : Nat) : (swapRows W p q).length = W.length := by
  simp [swapRows]

@[simp] theorem length_addRowWhere (sel : Nat → Bool) (p : Nat) (X W : List Vec) :
    (addRowWhere sel p X W).length = W.length := by
  simp [addRowWhere]

/-- The found pivot row stands at or below `p` and has a 1 in the column (rules R80, R83). -/
theorem findPivot_spec {W : List Vec} {col p q : Nat} (h : findPivot W col p = some q) :
    p ≤ q ∧ q < W.length ∧ bitAt (W.getD q []) col = true := by
  have h1 := List.find?_some h
  have h2 := List.mem_of_find?_eq_some h
  simp only [Bool.and_eq_true, decide_eq_true_eq] at h1
  exact ⟨h1.1, by simpa using h2, h1.2⟩

/-- Where no pivot is found, no row at or below `p` has a 1 in the column. -/
theorem findPivot_none {W : List Vec} {col p q : Nat} (h : findPivot W col p = none) (hp : p ≤ q) (hq : q < W.length) :
    bitAt (W.getD q []) col = false := by
  have h1 := List.find?_eq_none.mp h q (by simpa using hq)
  simpa [hp] using h1

/-- Every row of the list has length `C`. -/
def RowsOf (C : Nat) (W : List Vec) : Prop := ∀ w ∈ W, w.length = C

theorem RowsOf.getD {C : Nat} {W : List Vec} (h : RowsOf C W) {i : Nat} (hi : i < W.length) : (W.getD i []).length = C := by
  rw [List.getD_eq_getElem _ _ hi]
  exact h _ (List.getElem_mem hi)

theorem RowsOf.swapRows {C : Nat} {W : List Vec} (h : RowsOf C W) {p q : Nat} (hp : p < W.length) (hq : q < W.length) :
    RowsOf C (swapRows W p q) := by
  intro w hw
  rcases List.mem_or_eq_of_mem_set hw with h1 | h1
  · rcases List.mem_or_eq_of_mem_set h1 with h2 | h2
    · exact h w h2
    · rw [h2]; exact h.getD hq
  · rw [h1]; exact h.getD hp

theorem RowsOf.addRowWhere {C : Nat} {X W : List Vec} (hX : RowsOf C X) (hW : RowsOf C W) {sel : Nat → Bool} {p : Nat}
    (hp : p < X.length) : RowsOf C (addRowWhere sel p X W) := by
  intro w hw
  simp only [Machine.addRowWhere, List.mem_map] at hw
  obtain ⟨⟨u, i⟩, hu, rfl⟩ := hw
  have hu' := hW u (List.fst_mem_of_mem_zipIdx hu)
  dsimp only
  split
  · rw [length_vecXor, hu', hX.getD hp, Nat.min_self]
  · exact hu'

/-- One column of the forward elimination keeps the sizes of both lists of rows. -/
theorem forwardStep_sizes {N C D : Nat} {st : List Vec × List Vec} {col : Nat} (hc : col < N) (h1 : st.1.length = N)
    (h2 : st.2.length = N) (h3 : RowsOf C st.1) (h4 : RowsOf D st.2) :
    (forwardStep st col).1.length = N ∧ (forwardStep st col).2.length = N ∧ RowsOf C (forwardStep st col).1 ∧
      RowsOf D (forwardStep st col).2 := by
  simp only [forwardStep]
  split
  · exact ⟨h1, h2, h3, h4⟩
  · next q hq =>
    have hq' := (findPivot_spec hq).2.1
    have a : RowsOf C (swapRows st.1 col q) := h3.swapRows (by omega) hq'
    have b : RowsOf D (swapRows st.2 col q) := h4.swapRows (by omega) (by omega)
    refine ⟨by simp [h1], by simp [h2], ?_, ?_⟩ <;> dsimp only
    · exact a.addRowWhere a (by simp; omega)
    · exact b.addRowWhere b (by simp; omega)

/-- One column of the back-substitution keeps the sizes of both lists of rows. -/
theorem backStep_sizes {N C D : Nat} {st : List Vec × List Vec} {col : Nat} (hc : col < N) (h1 : st.1.length = N)
    (h2 : st.2.length = N) (h3 : RowsOf C st.1) (h4 : RowsOf D st.2) :
    (backStep st col).1.length = N ∧ (backStep st col).2.length = N ∧ RowsOf C (backStep st col).1 ∧
      RowsOf D (backStep st col).2 := by
  refine ⟨by simp [backStep, h1], by simp [backStep, h2], ?_, ?_⟩ <;> dsimp only [backStep]
  · exact h3.addRowWhere h3 (by omega)
  · exact h4.addRowWhere h4 (by omega)

/-- The inverse of an `N`-row matrix has `N` rows of length `N`. -/
theorem matInv_sizes {A : Mat} {C : Nat} (hl : A.row.length = A.rows) (hr : RowsOf C A.row) :
    (matInv A).row.length = A.rows ∧ RowsOf A.rows (matInv A).row := by
  have key : ∀ (f : List Vec × List Vec → Nat → List Vec × List Vec),
      (∀ st col, col < A.rows → st.1.length = A.rows → st.2.length = A.rows → RowsOf C st.1 → RowsOf A.rows st.2 →
        (f st col).1.length = A.rows ∧ (f st col).2.length = A.rows ∧ RowsOf C (f st col).1 ∧ RowsOf A.rows (f st col).2) →
      ∀ (cols : List Nat) (st : List Vec × List Vec), (∀ c ∈ cols, c < A.rows) → st.1.length = A.rows →
        st.2.length = A.rows → RowsOf C st.1 → RowsOf A.rows st.2 →
        (cols.foldl f st).1.length = A.rows ∧ (cols.foldl f st).2.length = A.rows ∧ RowsOf C (cols.foldl f st).1 ∧
          RowsOf A.rows (cols.foldl f st).2 := by
    intro f hf cols
    induction cols with
    | nil => intro st _ h1 h2 h3 h4; exact ⟨h1, h2, h3, h4⟩
    | cons c cols ih =>
      intro st hc h1 h2 h3 h4
      obtain ⟨a, b, c', d⟩ := hf st c (hc c (by simp)) h1 h2 h3 h4
      exact ih _ (fun x hx => hc x (by simp [hx])) a b c' d
  obtain ⟨a, b, c, d⟩ := key forwardStep (fun st col hc h1 h2 h3 h4 => forwardStep_sizes hc h1 h2 h3 h4)
    (List.range A.rows) (A.row, identityRows A.rows) (by simp) hl (by simp) hr (fun w hw => length_of_mem_identityRows hw)
  obtain ⟨-, b', -, d'⟩ := key backStep (fun st col hc h1 h2 h3 h4 => backStep_sizes hc h1 h2 h3 h4)
    (List.range A.rows).reverse _ (by simp) a b c d
  exact ⟨b', d'⟩

@[simp] theorem length_substitution (table : List Nat) (m : Nat) (v : Vec) : (substitution table m v).length = v.length := by
  induction m generalizing v with
  | zero => rfl
  | succ m ih =>
    match v with
    | [] | [_] | [_, _] => rfl
    | a :: b :: c :: rest => simp [substitution, sboxGroup, ih]

@[simp] theorem length_substitute (m : Nat) (v : Vec) : (substitute m v).length = v.length := length_substitution _ _ _

@[simp] theorem length_invSubstitute (m : Nat) (v : Vec) : (invSubstitute m v).length = v.length := length_substitution _ _ _

/-- Self-shrunk bits: as many as asked for. -/
theorem length_drawSs {k : Nat} {l l' : Lfsr} {v : Vec} (h : drawSs k l = some (v, l')) : v.length = k := by
  induction k generalizing l v l' with
  | zero => simp only [drawSs, Option.some.injEq, Prod.mk.injEq] at h; simp [← h.1]
  | succ k ih =>
    simp only [drawSs] at h
    split at h
    · cases h
    · split at h
      · cases h
      · next hd => cases h; simp [ih hd]

/-- Drawn vectors: as many as asked for, each of the length asked for. -/
theorem sizes_drawVectors {L k : Nat} {l l' : Lfsr} {vs : List Vec} (h : drawVectors L k l = some (vs, l')) :
    vs.length = k ∧ RowsOf L vs := by
  induction k generalizing l vs l' with
  | zero =>
    simp only [drawVectors, Option.some.injEq, Prod.mk.injEq] at h
    rw [← h.1]
    exact ⟨rfl, by simp [RowsOf]⟩
  | succ k ih =>
    simp only [drawVectors] at h
    split at h
    · cases h
    · next v l1 hv =>
      split at h
      · cases h
      · next hd =>
        cases h
        obtain ⟨a, b⟩ := ih hd
        refine ⟨by simp [a], ?_⟩
        intro w hw
        rcases List.mem_cons.mp hw with rfl | hw
        · exact length_drawSs hv
        · exact b w hw

/-- A drawn matrix has the dimensions asked for. -/
theorem sizes_drawMatrix {R C : Nat} {l l' : Lfsr} {A : Mat} (h : drawMatrix R C l = some (A, l')) :
    A.rows = R ∧ A.cols = C ∧ A.row.length = R ∧ RowsOf C A.row := by
  simp only [drawMatrix] at h
  split at h
  · cases h
  · next hd =>
    cases h
    exact ⟨rfl, rfl, (sizes_drawVectors hd).1, (sizes_drawVectors hd).2⟩

/-- The accepted candidate of the retry loop is a drawn matrix whose rank is kept (rule R98). -/
theorem drawUntil_spec {keep : Nat → Bool} {R C fuel rej rej' : Nat} {l l' : Lfsr} {A : Mat}
    (h : drawUntil keep R C fuel rej l = some (A, rej', l')) :
    keep (matRank A) = true ∧ A.rows = R ∧ A.cols = C ∧ A.row.length = R ∧ RowsOf C A.row := by
  induction fuel generalizing rej l with
  | zero => cases h
  | succ fuel ih =>
    simp only [drawUntil] at h
    split at h
    · cases h
    · next hd =>
      split at h
      · next hk => cases h; exact ⟨hk, sizes_drawMatrix hd⟩
      · exact ih h

/-- A phase of accepted matrices: as many as asked for, each one kept (rule R98). -/
theorem drawAccepted_spec {keep : Nat → Bool} {R C k rej rej' : Nat} {l l' : Lfsr} {As : List Mat}
    (h : drawAccepted keep R C k rej l = some (As, rej', l')) :
    As.length = k ∧ ∀ A ∈ As, keep (matRank A) = true ∧ A.rows = R ∧ A.cols = C ∧ A.row.length = R ∧ RowsOf C A.row := by
  induction k generalizing rej l As rej' l' with
  | zero =>
    simp only [drawAccepted, Option.some.injEq, Prod.mk.injEq] at h
    rw [← h.1]
    simp
  | succ k ih =>
    simp only [drawAccepted] at h
    split at h
    · cases h
    · next hu =>
      split at h
      · cases h
      · next ha =>
        cases h
        obtain ⟨a, b⟩ := ih ha
        refine ⟨by simp [a], ?_⟩
        intro A hA
        rcases List.mem_cons.mp hA with rfl | hA
        · exact drawUntil_spec hu
        · exact b A hA

end Sys2Proof.Machine
end

