-- ==== Sys2Proof/Laws/Lfsr.lean ====
section
/-! SUPPORT. The laws of the bit generator: its step is linear over GF(2), and the self-shrinking loop ends within 80 attempts
from every register but the all-zero one. The argument: the first 80 choice bits determine the register, by the linear map
`registerOf`, whose correctness is checked on the 80 registers with one bit set. -/

namespace Sys2Proof.Machine

theorem lfsrFeedback_xor (a b : BitVec 80) : lfsrFeedback (a ^^^ b) = xor (lfsrFeedback a) (lfsrFeedback b) := by
  simp only [lfsrFeedback, BitVec.getLsbD_xor]
  generalize a.getLsbD 0 = a0; generalize a.getLsbD 13 = a1; generalize a.getLsbD 23 = a2
  generalize a.getLsbD 38 = a3; generalize a.getLsbD 51 = a4; generalize a.getLsbD 62 = a5
  generalize b.getLsbD 0 = b0; generalize b.getLsbD 13 = b1; generalize b.getLsbD 23 = b2
  generalize b.getLsbD 38 = b3; generalize b.getLsbD 51 = b4; generalize b.getLsbD 62 = b5
  revert a0 a1 a2 a3 a4 a5 b0 b1 b2 b3 b4 b5
  decide

/-- What a raw step leaves in each bit of the register (rule R86). -/
theorem getLsbD_lfsrStep (s : BitVec 80) (j : Nat) :
    (lfsrStep s).getLsbD j = if j = 79 then lfsrFeedback s else s.getLsbD (j + 1) := by
  simp only [lfsrStep, BitVec.getLsbD_cons]
  by_cases h : j = 79
  · simp [h]
  · by_cases h2 : j < 79
    · simp only [h, if_false, BitVec.getLsbD_extractLsb', h2]
      simp [Nat.add_comm]
    · have : 80 ≤ j + 1 := by omega
      simp [h, BitVec.getLsbD_extractLsb', h2, BitVec.getLsbD_of_ge s _ this]

theorem lfsrStep_xor (a b : BitVec 80) : lfsrStep (a ^^^ b) = lfsrStep a ^^^ lfsrStep b := by
  apply BitVec.eq_of_getLsbD_eq
  intro j _
  simp only [getLsbD_lfsrStep, BitVec.getLsbD_xor, lfsrFeedback_xor]
  split <;> rfl

/-- The choice bits of the first `k` attempts at a self-shrunk bit (rule R87). -/
def choices : Nat → BitVec 80 → Vec
  | 0, _ => []
  | k + 1, s => lfsrFeedback s :: choices k (lfsrStep (lfsrStep s))

@[simp] theorem length_choices (k : Nat) (s : BitVec 80) : (choices k s).length = k := by
  induction k generalizing s with
  | zero => rfl
  | succ k ih => simp [choices, ih]

theorem choices_xor (k : Nat) (a b : BitVec 80) : choices k (a ^^^ b) = vecXor (choices k a) (choices k b) := by
  induction k generalizing a b with
  | zero => rfl
  | succ k ih => simp [choices, vecXor, lfsrFeedback_xor, lfsrStep_xor, ih]

/-- The sum of the registers in `cs` that the bits of `v` select. -/
def sumOf : List (BitVec 80) → Vec → BitVec 80
  | c :: cs, b :: v => (if b then c else 0) ^^^ sumOf cs v
  | _, _ => 0

theorem sumOf_vecXor (cs : List (BitVec 80)) {u w : Vec} (h : u.length = w.length) :
    sumOf cs (vecXor u w) = sumOf cs u ^^^ sumOf cs w := by
  induction cs generalizing u w with
  | nil => simp [sumOf]
  | cons c cs ih =>
    cases u with
    | nil => cases w <;> simp_all [sumOf, vecXor]
    | cons a u =>
      cases w with
      | nil => simp at h
      | cons b w =>
        have := ih (u := u) (w := w) (by simpa using h)
        simp only [vecXor] at this
        simp only [vecXor, List.zipWith_cons_cons, sumOf, this]
        generalize sumOf cs u = x
        generalize sumOf cs w = y
        have hc : c ^^^ c = 0 := BitVec.xor_self
        cases a <;> cases b
        · simp
        · simp; ac_rfl
        · simp; ac_rfl
        · calc (if xor true true then c else 0) ^^^ (x ^^^ y) = (c ^^^ c) ^^^ (x ^^^ y) := by rw [hc]; rfl
            _ = (c ^^^ x) ^^^ (c ^^^ y) := by ac_rfl

theorem sumOf_replicate_false (cs : List (BitVec 80)) (k : Nat) : sumOf cs (List.replicate k false) = 0 := by
  induction cs generalizing k with
  | nil => cases k <;> rfl
  | cons c cs ih => cases k <;> simp [sumOf, List.replicate_succ, ih]

/-- Column `k` is the register whose choice bits are 0 but for attempt `k`'s. -/
def choiceColumns : List (BitVec 80) :=
  [0x8A8808C0082C9A022296, 0x2A20230020B268088A58, 0xA8808C0082C9A0222960, 0xA20230020B268088A582,
   0x8808C0082C9A0222960A, 0x20230020B268088A5828, 0x808C0082C9A0222960A1, 0x0230020B268088A58284,
   0x08C0082C9A0222960A10, 0x230020B268088A582843, 0x8C0082C9A0222960A10C, 0x30020B268088A5828433,
   0xC0082C9A0222960A10CF, 0x8AA8BAA800A6C22A61AA, 0x2AA2EAA0029B08A986AA, 0xAA8BAA800A6C22A61AAA,
   0xAA2EAA0029B08A986AA8, 0xA8BAA800A6C22A61AAA2, 0xA2EAA0029B08A986AA8A, 0x8BAA800A6C22A61AAA28] ++
  [0x2EAA0029B08A986AA8A0, 0xBAA800A6C22A61AAA282, 0xEAA0029B08A986AA8A0A, 0x200802AC2A8A80A80ABE,
   0x80200AB0AA2A02A02AFA, 0x00802AC2A8A80A80ABE8, 0x0200AB0AA2A02A02AFA0, 0x0802AC2A8A80A80ABE80,
   0x200AB0AA2A02A02AFA00, 0x802AC2A8A80A80ABE800, 0x00AB0AA2A02A02AFA002, 0x02AC2A8A80A80ABE800A,
   0x0AB0AA2A02A02AFA0028, 0x2AC2A8A80A80ABE800A2, 0xAB0AA2A02A02AFA00289, 0xAC2A8A80A80ABE800A25,
   0xB0AA2A02A02AFA002897, 0xC2A8A80A80ABE800A25E, 0x802AA8EA0A833A00ABEC, 0x00AAA3A82A0CE802AFB0] ++
  [0x02AA8EA0A833A00ABEC3, 0x0AAA3A82A0CE802AFB0C, 0x2AA8EA0A833A00ABEC30, 0xAAA3A82A0CE802AFB0C0,
   0xAA8EA0A833A00ABEC300, 0xAA3A82A0CE802AFB0C03, 0xA8EA0A833A00ABEC300C, 0xA3A82A0CE802AFB0C032,
   0x8EA0A833A00ABEC300CB, 0x3A82A0CE802AFB0C032F, 0xEA0A833A00ABEC300CBF, 0x22A204280A832AC2106A,
   0x8A8810A02A0CAB0841A8, 0x2A204280A832AC2106A3, 0xA8810A02A0CAB0841A8E, 0xA204280A832AC2106A38,
   0x8810A02A0CAB0841A8E2, 0x204280A832AC2106A388, 0x810A02A0CAB0841A8E22, 0x04280A832AC2106A3888] ++
  [0x10A02A0CAB0841A8E221, 0x4280A832AC2106A38885, 0x808AA80AB8A8808C0082, 0x022AA02AE2A20230020B,
   0x08AA80AB8A8808C0082C, 0x22AA02AE2A20230020B2, 0x8AA80AB8A8808C0082C9, 0x2AA02AE2A20230020B26,
   0xAA80AB8A8808C0082C9A, 0xAA02AE2A20230020B268, 0xA80AB8A8808C0082C9A0, 0xA02AE2A20230020B2680,
   0x80AB8A8808C0082C9A02, 0x02AE2A20230020B26808, 0x0AB8A8808C0082C9A022, 0x2AE2A20230020B268088,
   0xAB8A8808C0082C9A0222, 0xAE2A20230020B268088A, 0xB8A8808C0082C9A02229, 0xE2A20230020B268088A5]

/-- The register with the given 80 choice bits. -/
def registerOf (v : Vec) : BitVec 80 := sumOf choiceColumns v

theorem registerOf_choices_basis : ∀ j, j < 80 → registerOf (choices 80 (BitVec.twoPow 80 j)) = BitVec.twoPow 80 j := by
  decide +kernel

/-- A map of registers that keeps sums and every register with one bit set is the identity. -/
theorem linear_ext {F : BitVec 80 → BitVec 80} (h0 : F 0 = 0) (hx : ∀ a b, F (a ^^^ b) = F a ^^^ F b)
    (hb : ∀ j, j < 80 → F (BitVec.twoPow 80 j) = BitVec.twoPow 80 j) (s : BitVec 80) : F s = s := by
  suffices h : ∀ n, n ≤ 80 → ∀ s : BitVec 80, (∀ j, n ≤ j → s.getLsbD j = false) → F s = s from
    h 80 (by omega) s fun j hj => BitVec.getLsbD_of_ge _ _ hj
  intro n
  induction n with
  | zero =>
    intro _ s hs
    have : s = 0 := BitVec.eq_of_getLsbD_eq fun j _ => by simp [hs j (by omega)]
    rw [this, h0]
  | succ n ih =>
    intro hn s hs
    by_cases hbit : s.getLsbD n = true
    · have hr : s = (s ^^^ BitVec.twoPow 80 n) ^^^ BitVec.twoPow 80 n := by
        rw [BitVec.xor_assoc, BitVec.xor_self, BitVec.xor_zero]
      have := ih (by omega) (s ^^^ BitVec.twoPow 80 n) (by
        intro j hj
        rw [BitVec.getLsbD_xor, BitVec.getLsbD_twoPow]
        by_cases hjn : j = n
        · subst hjn; simp [hbit]; omega
        · have : ¬ n = j := fun e => hjn e.symm
          simp [hs j (by omega), this])
      rw [hr, hx, this, hb n (by omega)]
    · exact ih (by omega) s fun j hj => by
        by_cases hjn : j = n
        · subst hjn; simpa using hbit
        · exact hs j (by omega)

theorem registerOf_choices (s : BitVec 80) : registerOf (choices 80 s) = s := by
  refine linear_ext (F := fun s => registerOf (choices 80 s)) (by decide +kernel) ?_ registerOf_choices_basis s
  intro a b
  simp only [registerOf, choices_xor]
  exact sumOf_vecXor _ (by simp)

theorem choices_of_ssBit_none {k : Nat} {s : BitVec 80} (h : ssBit k s = none) : choices k s = List.replicate k false := by
  induction k generalizing s with
  | zero => rfl
  | succ k ih =>
    simp only [ssBit] at h
    split at h
    · cases h
    · rename_i hc
      simp [choices, List.replicate_succ, ih h, hc]

/-- One self-shrunk bit takes at most 80 attempts from a register that is not all zeros (rule R95 item 4). -/
theorem ssBit_ends {s : BitVec 80} (h : s ≠ 0) : ∃ p, ssBit 80 s = some p := by
  cases hs : ssBit 80 s with
  | some p => exact ⟨p, rfl⟩
  | none =>
    have := registerOf_choices s
    rw [choices_of_ssBit_none hs, registerOf, sumOf_replicate_false] at this
    exact absurd this.symm h

/-- More attempts than are needed change nothing. -/
theorem ssBit_mono {k : Nat} {s : BitVec 80} {p : Bool × BitVec 80} (h : ssBit k s = some p) (m : Nat) :
    ssBit (k + m) s = some p := by
  induction k generalizing s with
  | zero => cases h
  | succ k ih =>
    rw [Nat.succ_add]
    simp only [ssBit] at h ⊢
    split at h <;> simp_all

/-- A register that is not all zeros does not become so by a raw step (rule R95 item 2). -/
theorem lfsrStep_ne_zero {s : BitVec 80} (h : s ≠ 0) : lfsrStep s ≠ 0 := by
  intro hz
  apply h
  have hj : ∀ j, (lfsrStep s).getLsbD j = false := by simp [hz]
  have hhi : ∀ j, 1 ≤ j → s.getLsbD j = false := by
    intro j h1
    have := hj (j - 1)
    rw [getLsbD_lfsrStep] at this
    by_cases h79 : j - 1 = 79
    · exact BitVec.getLsbD_of_ge _ _ (by omega)
    · simpa [h79, Nat.sub_add_cancel h1] using this
  have h0 : s.getLsbD 0 = false := by
    have := hj 79
    rw [getLsbD_lfsrStep] at this
    simp only [if_true, lfsrFeedback] at this
    rwa [hhi 13 (by omega), hhi 23 (by omega), hhi 38 (by omega), hhi 51 (by omega), hhi 62 (by omega),
      Bool.xor_false, Bool.xor_false, Bool.xor_false, Bool.xor_false, Bool.xor_false] at this
  exact BitVec.eq_of_getLsbD_eq fun j _ => by
    by_cases hj0 : j = 0
    · subst hj0; rw [h0]; rfl
    · rw [hhi j (by omega)]; simp

theorem lfsrSteps_ne_zero (k : Nat) {s : BitVec 80} (h : s ≠ 0) : lfsrSteps k s ≠ 0 := by
  induction k generalizing s with
  | zero => exact h
  | succ k ih => exact ih (lfsrStep_ne_zero h)

theorem ensureInit_ne_zero {l : Lfsr} (h : l.s ≠ 0) : (ensureInit l).s ≠ 0 := by
  unfold ensureInit
  split
  · exact h
  · exact lfsrSteps_ne_zero 160 h

theorem ssBit_ne_zero {k : Nat} {s : BitVec 80} {b : Bool} {s' : BitVec 80} (hs : s ≠ 0) (h : ssBit k s = some (b, s')) :
    s' ≠ 0 := by
  induction k generalizing s with
  | zero => cases h
  | succ k ih =>
    simp only [ssBit] at h
    have h2 := lfsrStep_ne_zero (lfsrStep_ne_zero hs)
    split at h
    · cases h; exact h2
    · exact ih h2 h

/-- Every draw of a self-shrunk bit ends, and leaves the register not all zeros, from a register that is not all zeros. -/
theorem lfsrSs_ends {l : Lfsr} (h : l.s ≠ 0) : ∃ b l', lfsrSs l = some (b, l') ∧ l'.s ≠ 0 := by
  obtain ⟨⟨b, s'⟩, hp⟩ := ssBit_ends (ensureInit_ne_zero h)
  have hc : ssBit cycleBound (ensureInit l).s = some (b, s') := by
    have := ssBit_mono hp (cycleBound - 80)
    rwa [show 80 + (cycleBound - 80) = cycleBound by unfold cycleBound; omega] at this
  exact ⟨b, { ensureInit l with s := s' }, by simp only [lfsrSs, hc], ssBit_ne_zero (ensureInit_ne_zero h) hp⟩

/-- Every draw of a vector ends likewise, with as many bits as were asked for. -/
theorem drawSs_ends (k : Nat) {l : Lfsr} (h : l.s ≠ 0) : ∃ v l', drawSs k l = some (v, l') ∧ v.length = k ∧ l'.s ≠ 0 := by
  induction k generalizing l with
  | zero => exact ⟨[], l, rfl, rfl, h⟩
  | succ k ih =>
    obtain ⟨b, l1, h1, hz⟩ := lfsrSs_ends h
    obtain ⟨v, l2, h2, hl, hz2⟩ := ih hz
    exact ⟨b :: v, l2, by simp only [drawSs, h1, h2], by simp [hl], hz2⟩

theorem drawVectors_ends (L k : Nat) {l : Lfsr} (h : l.s ≠ 0) :
    ∃ vs l', drawVectors L k l = some (vs, l') ∧ vs.length = k ∧ (∀ v ∈ vs, v.length = L) ∧ l'.s ≠ 0 := by
  induction k generalizing l with
  | zero => exact ⟨[], l, rfl, rfl, by simp, h⟩
  | succ k ih =>
    obtain ⟨v, l1, h1, hv, hz⟩ := drawSs_ends L h
    obtain ⟨vs, l2, h2, hl, hall, hz2⟩ := ih hz
    refine ⟨v :: vs, l2, by simp only [drawVectors, h1, h2], by simp [hl], ?_, hz2⟩
    simpa using ⟨hv, hall⟩

theorem drawMatrix_ends (R C : Nat) {l : Lfsr} (h : l.s ≠ 0) :
    ∃ A l', drawMatrix R C l = some (A, l') ∧ A.rows = R ∧ A.cols = C ∧ A.row.length = R ∧ (∀ w ∈ A.row, w.length = C) ∧
      l'.s ≠ 0 := by
  obtain ⟨vs, l1, h1, hl, hall, hz⟩ := drawVectors_ends C R h
  exact ⟨⟨R, C, vs⟩, l1, by simp only [drawMatrix, h1], rfl, rfl, hl, hall, hz⟩

/-- A draw of raw bits gives as many bits as were asked for, and leaves the register not all zeros. -/
theorem drawRaw_spec (k : Nat) {l : Lfsr} (h : l.s ≠ 0) : (drawRaw k l).1.length = k ∧ (drawRaw k l).2.s ≠ 0 := by
  induction k generalizing l with
  | zero => exact ⟨rfl, h⟩
  | succ k ih =>
    have h1 : (lfsrRaw l).2.s ≠ 0 := lfsrStep_ne_zero (ensureInit_ne_zero h)
    have := ih h1
    exact ⟨by simp [drawRaw, this.1], this.2⟩

end Sys2Proof.Machine
end

