-- ==== Sys2Proof/Laws/State.lean ====
section
/-! SUPPORT. What each named update of the state does to each field, one lemma per field per update, true by rfl. -/

namespace Sys2Proof.Machine

variable (s : State)

/-! ### putVec -/

@[simp] theorem putVec_cfg (i : RegIdx) (x : Vec) : (s.putVec i x).cfg = s.cfg := rfl
@[simp] theorem putVec_v (i : RegIdx) (x : Vec) : (s.putVec i x).v = s.v.set i.toNat { len := x.length, bits := storeOf 2047 x } := rfl
@[simp] theorem putVec_m (i : RegIdx) (x : Vec) : (s.putVec i x).m = s.m := rfl
@[simp] theorem putVec_sh (i : RegIdx) (x : Vec) : (s.putVec i x).sh = s.sh := rfl
@[simp] theorem putVec_tr (i : RegIdx) (x : Vec) : (s.putVec i x).tr = s.tr := rfl
@[simp] theorem putVec_views (i : RegIdx) (x : Vec) : (s.putVec i x).views = s.views := rfl
@[simp] theorem putVec_vptr (i : RegIdx) (x : Vec) : (s.putVec i x).vptr = s.vptr := rfl
@[simp] theorem putVec_parties (i : RegIdx) (x : Vec) : (s.putVec i x).parties = s.parties := rfl
@[simp] theorem putVec_lfsr (i : RegIdx) (x : Vec) : (s.putVec i x).lfsr = s.lfsr := rfl
@[simp] theorem putVec_cx (i : RegIdx) (x : Vec) : (s.putVec i x).cx = s.cx := rfl
@[simp] theorem putVec_result (i : RegIdx) (x : Vec) : (s.putVec i x).result = s.result := rfl
@[simp] theorem putVec_retries (i : RegIdx) (x : Vec) : (s.putVec i x).retries = s.retries := rfl
@[simp] theorem putVec_argA (i : RegIdx) (x : Vec) : (s.putVec i x).argA = s.argA := rfl
@[simp] theorem putVec_argB (i : RegIdx) (x : Vec) : (s.putVec i x).argB = s.argB := rfl
@[simp] theorem putVec_ieDone (i : RegIdx) (x : Vec) : (s.putVec i x).ieDone = s.ieDone := rfl
@[simp] theorem putVec_ieErr (i : RegIdx) (x : Vec) : (s.putVec i x).ieErr = s.ieErr := rfl
@[simp] theorem putVec_notAll (i : RegIdx) (x : Vec) : (s.putVec i x).notAll = s.notAll := rfl
@[simp] theorem putVec_done (i : RegIdx) (x : Vec) : (s.putVec i x).done = s.done := rfl
@[simp] theorem putVec_drop (i : RegIdx) (x : Vec) : (s.putVec i x).drop = s.drop := rfl
@[simp] theorem putVec_err (i : RegIdx) (x : Vec) : (s.putVec i x).err = s.err := rfl
@[simp] theorem putVec_errCmd (i : RegIdx) (x : Vec) : (s.putVec i x).errCmd = s.errCmd := rfl
@[simp] theorem putVec_wsel (i : RegIdx) (x : Vec) : (s.putVec i x).wsel = s.wsel := rfl
@[simp] theorem putVec_phase (i : RegIdx) (x : Vec) : (s.putVec i x).phase = s.phase := rfl
@[simp] theorem putVec_env (i : RegIdx) (x : Vec) : (s.putVec i x).env = s.env := rfl
@[simp] theorem putVec_rdata (i : RegIdx) (x : Vec) : (s.putVec i x).rdata = s.rdata := rfl
@[simp] theorem putVec_trngUsed (i : RegIdx) (x : Vec) : (s.putVec i x).trngUsed = s.trngUsed := rfl
@[simp] theorem putVec_freeReads (i : RegIdx) (x : Vec) : (s.putVec i x).freeReads = s.freeReads := rfl

/-! ### putVecBit -/

@[simp] theorem putVecBit_cfg (i : RegIdx) (k : Nat) (b : Bool) : (s.putVecBit i k b).cfg = s.cfg := rfl
@[simp] theorem putVecBit_v (i : RegIdx) (k : Nat) (b : Bool) : (s.putVecBit i k b).v = s.v.set i.toNat { s.vreg i with bits := putBit k b (s.vreg i).bits } := rfl
@[simp] theorem putVecBit_m (i : RegIdx) (k : Nat) (b : Bool) : (s.putVecBit i k b).m = s.m := rfl
@[simp] theorem putVecBit_sh (i : RegIdx) (k : Nat) (b : Bool) : (s.putVecBit i k b).sh = s.sh := rfl
@[simp] theorem putVecBit_tr (i : RegIdx) (k : Nat) (b : Bool) : (s.putVecBit i k b).tr = s.tr := rfl
@[simp] theorem putVecBit_views (i : RegIdx) (k : Nat) (b : Bool) : (s.putVecBit i k b).views = s.views := rfl
@[simp] theorem putVecBit_vptr (i : RegIdx) (k : Nat) (b : Bool) : (s.putVecBit i k b).vptr = s.vptr := rfl
@[simp] theorem putVecBit_parties (i : RegIdx) (k : Nat) (b : Bool) : (s.putVecBit i k b).parties = s.parties := rfl
@[simp] theorem putVecBit_lfsr (i : RegIdx) (k : Nat) (b : Bool) : (s.putVecBit i k b).lfsr = s.lfsr := rfl
@[simp] theorem putVecBit_cx (i : RegIdx) (k : Nat) (b : Bool) : (s.putVecBit i k b).cx = s.cx := rfl
@[simp] theorem putVecBit_result (i : RegIdx) (k : Nat) (b : Bool) : (s.putVecBit i k b).result = s.result := rfl
@[simp] theorem putVecBit_retries (i : RegIdx) (k : Nat) (b : Bool) : (s.putVecBit i k b).retries = s.retries := rfl
@[simp] theorem putVecBit_argA (i : RegIdx) (k : Nat) (b : Bool) : (s.putVecBit i k b).argA = s.argA := rfl
@[simp] theorem putVecBit_argB (i : RegIdx) (k : Nat) (b : Bool) : (s.putVecBit i k b).argB = s.argB := rfl
@[simp] theorem putVecBit_ieDone (i : RegIdx) (k : Nat) (b : Bool) : (s.putVecBit i k b).ieDone = s.ieDone := rfl
@[simp] theorem putVecBit_ieErr (i : RegIdx) (k : Nat) (b : Bool) : (s.putVecBit i k b).ieErr = s.ieErr := rfl
@[simp] theorem putVecBit_notAll (i : RegIdx) (k : Nat) (b : Bool) : (s.putVecBit i k b).notAll = s.notAll := rfl
@[simp] theorem putVecBit_done (i : RegIdx) (k : Nat) (b : Bool) : (s.putVecBit i k b).done = s.done := rfl
@[simp] theorem putVecBit_drop (i : RegIdx) (k : Nat) (b : Bool) : (s.putVecBit i k b).drop = s.drop := rfl
@[simp] theorem putVecBit_err (i : RegIdx) (k : Nat) (b : Bool) : (s.putVecBit i k b).err = s.err := rfl
@[simp] theorem putVecBit_errCmd (i : RegIdx) (k : Nat) (b : Bool) : (s.putVecBit i k b).errCmd = s.errCmd := rfl
@[simp] theorem putVecBit_wsel (i : RegIdx) (k : Nat) (b : Bool) : (s.putVecBit i k b).wsel = s.wsel := rfl
@[simp] theorem putVecBit_phase (i : RegIdx) (k : Nat) (b : Bool) : (s.putVecBit i k b).phase = s.phase := rfl
@[simp] theorem putVecBit_env (i : RegIdx) (k : Nat) (b : Bool) : (s.putVecBit i k b).env = s.env := rfl
@[simp] theorem putVecBit_rdata (i : RegIdx) (k : Nat) (b : Bool) : (s.putVecBit i k b).rdata = s.rdata := rfl
@[simp] theorem putVecBit_trngUsed (i : RegIdx) (k : Nat) (b : Bool) : (s.putVecBit i k b).trngUsed = s.trngUsed := rfl
@[simp] theorem putVecBit_freeReads (i : RegIdx) (k : Nat) (b : Bool) : (s.putVecBit i k b).freeReads = s.freeReads := rfl

/-! ### putMat -/

@[simp] theorem putMat_cfg (i : RegIdx) (A : Mat) : (s.putMat i A).cfg = s.cfg := rfl
@[simp] theorem putMat_v (i : RegIdx) (A : Mat) : (s.putMat i A).v = s.v := rfl
@[simp] theorem putMat_m (i : RegIdx) (A : Mat) : (s.putMat i A).m = s.m.set i.toNat (matStore s.cfg.dmax A) := rfl
@[simp] theorem putMat_sh (i : RegIdx) (A : Mat) : (s.putMat i A).sh = s.sh := rfl
@[simp] theorem putMat_tr (i : RegIdx) (A : Mat) : (s.putMat i A).tr = s.tr := rfl
@[simp] theorem putMat_views (i : RegIdx) (A : Mat) : (s.putMat i A).views = s.views := rfl
@[simp] theorem putMat_vptr (i : RegIdx) (A : Mat) : (s.putMat i A).vptr = s.vptr := rfl
@[simp] theorem putMat_parties (i : RegIdx) (A : Mat) : (s.putMat i A).parties = s.parties := rfl
@[simp] theorem putMat_lfsr (i : RegIdx) (A : Mat) : (s.putMat i A).lfsr = s.lfsr := rfl
@[simp] theorem putMat_cx (i : RegIdx) (A : Mat) : (s.putMat i A).cx = s.cx := rfl
@[simp] theorem putMat_result (i : RegIdx) (A : Mat) : (s.putMat i A).result = s.result := rfl
@[simp] theorem putMat_retries (i : RegIdx) (A : Mat) : (s.putMat i A).retries = s.retries := rfl
@[simp] theorem putMat_argA (i : RegIdx) (A : Mat) : (s.putMat i A).argA = s.argA := rfl
@[simp] theorem putMat_argB (i : RegIdx) (A : Mat) : (s.putMat i A).argB = s.argB := rfl
@[simp] theorem putMat_ieDone (i : RegIdx) (A : Mat) : (s.putMat i A).ieDone = s.ieDone := rfl
@[simp] theorem putMat_ieErr (i : RegIdx) (A : Mat) : (s.putMat i A).ieErr = s.ieErr := rfl
@[simp] theorem putMat_notAll (i : RegIdx) (A : Mat) : (s.putMat i A).notAll = s.notAll := rfl
@[simp] theorem putMat_done (i : RegIdx) (A : Mat) : (s.putMat i A).done = s.done := rfl
@[simp] theorem putMat_drop (i : RegIdx) (A : Mat) : (s.putMat i A).drop = s.drop := rfl
@[simp] theorem putMat_err (i : RegIdx) (A : Mat) : (s.putMat i A).err = s.err := rfl
@[simp] theorem putMat_errCmd (i : RegIdx) (A : Mat) : (s.putMat i A).errCmd = s.errCmd := rfl
@[simp] theorem putMat_wsel (i : RegIdx) (A : Mat) : (s.putMat i A).wsel = s.wsel := rfl
@[simp] theorem putMat_phase (i : RegIdx) (A : Mat) : (s.putMat i A).phase = s.phase := rfl
@[simp] theorem putMat_env (i : RegIdx) (A : Mat) : (s.putMat i A).env = s.env := rfl
@[simp] theorem putMat_rdata (i : RegIdx) (A : Mat) : (s.putMat i A).rdata = s.rdata := rfl
@[simp] theorem putMat_trngUsed (i : RegIdx) (A : Mat) : (s.putMat i A).trngUsed = s.trngUsed := rfl
@[simp] theorem putMat_freeReads (i : RegIdx) (A : Mat) : (s.putMat i A).freeReads = s.freeReads := rfl

/-! ### putShare -/

@[simp] theorem putShare_cfg (i : RegIdx) (n : Nat) (z : Vec) : (s.putShare i n z).cfg = s.cfg := rfl
@[simp] theorem putShare_v (i : RegIdx) (n : Nat) (z : Vec) : (s.putShare i n z).v = s.v := rfl
@[simp] theorem putShare_m (i : RegIdx) (n : Nat) (z : Vec) : (s.putShare i n z).m = s.m := rfl
@[simp] theorem putShare_sh (i : RegIdx) (n : Nat) (z : Vec) : (s.putShare i n z).sh = s.sh.set i.toNat { cnt := n, b := partyStore z } := rfl
@[simp] theorem putShare_tr (i : RegIdx) (n : Nat) (z : Vec) : (s.putShare i n z).tr = s.tr := rfl
@[simp] theorem putShare_views (i : RegIdx) (n : Nat) (z : Vec) : (s.putShare i n z).views = s.views := rfl
@[simp] theorem putShare_vptr (i : RegIdx) (n : Nat) (z : Vec) : (s.putShare i n z).vptr = s.vptr := rfl
@[simp] theorem putShare_parties (i : RegIdx) (n : Nat) (z : Vec) : (s.putShare i n z).parties = s.parties := rfl
@[simp] theorem putShare_lfsr (i : RegIdx) (n : Nat) (z : Vec) : (s.putShare i n z).lfsr = s.lfsr := rfl
@[simp] theorem putShare_cx (i : RegIdx) (n : Nat) (z : Vec) : (s.putShare i n z).cx = s.cx := rfl
@[simp] theorem putShare_result (i : RegIdx) (n : Nat) (z : Vec) : (s.putShare i n z).result = s.result := rfl
@[simp] theorem putShare_retries (i : RegIdx) (n : Nat) (z : Vec) : (s.putShare i n z).retries = s.retries := rfl
@[simp] theorem putShare_argA (i : RegIdx) (n : Nat) (z : Vec) : (s.putShare i n z).argA = s.argA := rfl
@[simp] theorem putShare_argB (i : RegIdx) (n : Nat) (z : Vec) : (s.putShare i n z).argB = s.argB := rfl
@[simp] theorem putShare_ieDone (i : RegIdx) (n : Nat) (z : Vec) : (s.putShare i n z).ieDone = s.ieDone := rfl
@[simp] theorem putShare_ieErr (i : RegIdx) (n : Nat) (z : Vec) : (s.putShare i n z).ieErr = s.ieErr := rfl
@[simp] theorem putShare_notAll (i : RegIdx) (n : Nat) (z : Vec) : (s.putShare i n z).notAll = s.notAll := rfl
@[simp] theorem putShare_done (i : RegIdx) (n : Nat) (z : Vec) : (s.putShare i n z).done = s.done := rfl
@[simp] theorem putShare_drop (i : RegIdx) (n : Nat) (z : Vec) : (s.putShare i n z).drop = s.drop := rfl
@[simp] theorem putShare_err (i : RegIdx) (n : Nat) (z : Vec) : (s.putShare i n z).err = s.err := rfl
@[simp] theorem putShare_errCmd (i : RegIdx) (n : Nat) (z : Vec) : (s.putShare i n z).errCmd = s.errCmd := rfl
@[simp] theorem putShare_wsel (i : RegIdx) (n : Nat) (z : Vec) : (s.putShare i n z).wsel = s.wsel := rfl
@[simp] theorem putShare_phase (i : RegIdx) (n : Nat) (z : Vec) : (s.putShare i n z).phase = s.phase := rfl
@[simp] theorem putShare_env (i : RegIdx) (n : Nat) (z : Vec) : (s.putShare i n z).env = s.env := rfl
@[simp] theorem putShare_rdata (i : RegIdx) (n : Nat) (z : Vec) : (s.putShare i n z).rdata = s.rdata := rfl
@[simp] theorem putShare_trngUsed (i : RegIdx) (n : Nat) (z : Vec) : (s.putShare i n z).trngUsed = s.trngUsed := rfl
@[simp] theorem putShare_freeReads (i : RegIdx) (n : Nat) (z : Vec) : (s.putShare i n z).freeReads = s.freeReads := rfl

/-! ### putTriple -/

@[simp] theorem putTriple_cfg (i : RegIdx) (x : TReg) : (s.putTriple i x).cfg = s.cfg := rfl
@[simp] theorem putTriple_v (i : RegIdx) (x : TReg) : (s.putTriple i x).v = s.v := rfl
@[simp] theorem putTriple_m (i : RegIdx) (x : TReg) : (s.putTriple i x).m = s.m := rfl
@[simp] theorem putTriple_sh (i : RegIdx) (x : TReg) : (s.putTriple i x).sh = s.sh := rfl
@[simp] theorem putTriple_tr (i : RegIdx) (x : TReg) : (s.putTriple i x).tr = s.tr.set i.toNat x := rfl
@[simp] theorem putTriple_views (i : RegIdx) (x : TReg) : (s.putTriple i x).views = s.views := rfl
@[simp] theorem putTriple_vptr (i : RegIdx) (x : TReg) : (s.putTriple i x).vptr = s.vptr := rfl
@[simp] theorem putTriple_parties (i : RegIdx) (x : TReg) : (s.putTriple i x).parties = s.parties := rfl
@[simp] theorem putTriple_lfsr (i : RegIdx) (x : TReg) : (s.putTriple i x).lfsr = s.lfsr := rfl
@[simp] theorem putTriple_cx (i : RegIdx) (x : TReg) : (s.putTriple i x).cx = s.cx := rfl
@[simp] theorem putTriple_result (i : RegIdx) (x : TReg) : (s.putTriple i x).result = s.result := rfl
@[simp] theorem putTriple_retries (i : RegIdx) (x : TReg) : (s.putTriple i x).retries = s.retries := rfl
@[simp] theorem putTriple_argA (i : RegIdx) (x : TReg) : (s.putTriple i x).argA = s.argA := rfl
@[simp] theorem putTriple_argB (i : RegIdx) (x : TReg) : (s.putTriple i x).argB = s.argB := rfl
@[simp] theorem putTriple_ieDone (i : RegIdx) (x : TReg) : (s.putTriple i x).ieDone = s.ieDone := rfl
@[simp] theorem putTriple_ieErr (i : RegIdx) (x : TReg) : (s.putTriple i x).ieErr = s.ieErr := rfl
@[simp] theorem putTriple_notAll (i : RegIdx) (x : TReg) : (s.putTriple i x).notAll = s.notAll := rfl
@[simp] theorem putTriple_done (i : RegIdx) (x : TReg) : (s.putTriple i x).done = s.done := rfl
@[simp] theorem putTriple_drop (i : RegIdx) (x : TReg) : (s.putTriple i x).drop = s.drop := rfl
@[simp] theorem putTriple_err (i : RegIdx) (x : TReg) : (s.putTriple i x).err = s.err := rfl
@[simp] theorem putTriple_errCmd (i : RegIdx) (x : TReg) : (s.putTriple i x).errCmd = s.errCmd := rfl
@[simp] theorem putTriple_wsel (i : RegIdx) (x : TReg) : (s.putTriple i x).wsel = s.wsel := rfl
@[simp] theorem putTriple_phase (i : RegIdx) (x : TReg) : (s.putTriple i x).phase = s.phase := rfl
@[simp] theorem putTriple_env (i : RegIdx) (x : TReg) : (s.putTriple i x).env = s.env := rfl
@[simp] theorem putTriple_rdata (i : RegIdx) (x : TReg) : (s.putTriple i x).rdata = s.rdata := rfl
@[simp] theorem putTriple_trngUsed (i : RegIdx) (x : TReg) : (s.putTriple i x).trngUsed = s.trngUsed := rfl
@[simp] theorem putTriple_freeReads (i : RegIdx) (x : TReg) : (s.putTriple i x).freeReads = s.freeReads := rfl

/-! ### useTriple -/

@[simp] theorem useTriple_cfg (i : RegIdx) : (s.useTriple i).cfg = s.cfg := rfl
@[simp] theorem useTriple_v (i : RegIdx) : (s.useTriple i).v = s.v := rfl
@[simp] theorem useTriple_m (i : RegIdx) : (s.useTriple i).m = s.m := rfl
@[simp] theorem useTriple_sh (i : RegIdx) : (s.useTriple i).sh = s.sh := rfl
@[simp] theorem useTriple_tr (i : RegIdx) : (s.useTriple i).tr = s.tr.set i.toNat { s.treg i with valid := false } := rfl
@[simp] theorem useTriple_views (i : RegIdx) : (s.useTriple i).views = s.views := rfl
@[simp] theorem useTriple_vptr (i : RegIdx) : (s.useTriple i).vptr = s.vptr := rfl
@[simp] theorem useTriple_parties (i : RegIdx) : (s.useTriple i).parties = s.parties := rfl
@[simp] theorem useTriple_lfsr (i : RegIdx) : (s.useTriple i).lfsr = s.lfsr := rfl
@[simp] theorem useTriple_cx (i : RegIdx) : (s.useTriple i).cx = s.cx := rfl
@[simp] theorem useTriple_result (i : RegIdx) : (s.useTriple i).result = s.result := rfl
@[simp] theorem useTriple_retries (i : RegIdx) : (s.useTriple i).retries = s.retries := rfl
@[simp] theorem useTriple_argA (i : RegIdx) : (s.useTriple i).argA = s.argA := rfl
@[simp] theorem useTriple_argB (i : RegIdx) : (s.useTriple i).argB = s.argB := rfl
@[simp] theorem useTriple_ieDone (i : RegIdx) : (s.useTriple i).ieDone = s.ieDone := rfl
@[simp] theorem useTriple_ieErr (i : RegIdx) : (s.useTriple i).ieErr = s.ieErr := rfl
@[simp] theorem useTriple_notAll (i : RegIdx) : (s.useTriple i).notAll = s.notAll := rfl
@[simp] theorem useTriple_done (i : RegIdx) : (s.useTriple i).done = s.done := rfl
@[simp] theorem useTriple_drop (i : RegIdx) : (s.useTriple i).drop = s.drop := rfl
@[simp] theorem useTriple_err (i : RegIdx) : (s.useTriple i).err = s.err := rfl
@[simp] theorem useTriple_errCmd (i : RegIdx) : (s.useTriple i).errCmd = s.errCmd := rfl
@[simp] theorem useTriple_wsel (i : RegIdx) : (s.useTriple i).wsel = s.wsel := rfl
@[simp] theorem useTriple_phase (i : RegIdx) : (s.useTriple i).phase = s.phase := rfl
@[simp] theorem useTriple_env (i : RegIdx) : (s.useTriple i).env = s.env := rfl
@[simp] theorem useTriple_rdata (i : RegIdx) : (s.useTriple i).rdata = s.rdata := rfl
@[simp] theorem useTriple_trngUsed (i : RegIdx) : (s.useTriple i).trngUsed = s.trngUsed := rfl
@[simp] theorem useTriple_freeReads (i : RegIdx) : (s.useTriple i).freeReads = s.freeReads := rfl

/-! ### putCtx -/

@[simp] theorem putCtx_cfg (c : RegIdx) (x : Ctx) : (s.putCtx c x).cfg = s.cfg := rfl
@[simp] theorem putCtx_v (c : RegIdx) (x : Ctx) : (s.putCtx c x).v = s.v := rfl
@[simp] theorem putCtx_m (c : RegIdx) (x : Ctx) : (s.putCtx c x).m = s.m := rfl
@[simp] theorem putCtx_sh (c : RegIdx) (x : Ctx) : (s.putCtx c x).sh = s.sh := rfl
@[simp] theorem putCtx_tr (c : RegIdx) (x : Ctx) : (s.putCtx c x).tr = s.tr := rfl
@[simp] theorem putCtx_views (c : RegIdx) (x : Ctx) : (s.putCtx c x).views = s.views := rfl
@[simp] theorem putCtx_vptr (c : RegIdx) (x : Ctx) : (s.putCtx c x).vptr = s.vptr := rfl
@[simp] theorem putCtx_parties (c : RegIdx) (x : Ctx) : (s.putCtx c x).parties = s.parties := rfl
@[simp] theorem putCtx_lfsr (c : RegIdx) (x : Ctx) : (s.putCtx c x).lfsr = s.lfsr := rfl
@[simp] theorem putCtx_cx (c : RegIdx) (x : Ctx) : (s.putCtx c x).cx = s.cx.set c.toNat x := rfl
@[simp] theorem putCtx_result (c : RegIdx) (x : Ctx) : (s.putCtx c x).result = s.result := rfl
@[simp] theorem putCtx_retries (c : RegIdx) (x : Ctx) : (s.putCtx c x).retries = s.retries := rfl
@[simp] theorem putCtx_argA (c : RegIdx) (x : Ctx) : (s.putCtx c x).argA = s.argA := rfl
@[simp] theorem putCtx_argB (c : RegIdx) (x : Ctx) : (s.putCtx c x).argB = s.argB := rfl
@[simp] theorem putCtx_ieDone (c : RegIdx) (x : Ctx) : (s.putCtx c x).ieDone = s.ieDone := rfl
@[simp] theorem putCtx_ieErr (c : RegIdx) (x : Ctx) : (s.putCtx c x).ieErr = s.ieErr := rfl
@[simp] theorem putCtx_notAll (c : RegIdx) (x : Ctx) : (s.putCtx c x).notAll = s.notAll := rfl
@[simp] theorem putCtx_done (c : RegIdx) (x : Ctx) : (s.putCtx c x).done = s.done := rfl
@[simp] theorem putCtx_drop (c : RegIdx) (x : Ctx) : (s.putCtx c x).drop = s.drop := rfl
@[simp] theorem putCtx_err (c : RegIdx) (x : Ctx) : (s.putCtx c x).err = s.err := rfl
@[simp] theorem putCtx_errCmd (c : RegIdx) (x : Ctx) : (s.putCtx c x).errCmd = s.errCmd := rfl
@[simp] theorem putCtx_wsel (c : RegIdx) (x : Ctx) : (s.putCtx c x).wsel = s.wsel := rfl
@[simp] theorem putCtx_phase (c : RegIdx) (x : Ctx) : (s.putCtx c x).phase = s.phase := rfl
@[simp] theorem putCtx_env (c : RegIdx) (x : Ctx) : (s.putCtx c x).env = s.env := rfl
@[simp] theorem putCtx_rdata (c : RegIdx) (x : Ctx) : (s.putCtx c x).rdata = s.rdata := rfl
@[simp] theorem putCtx_trngUsed (c : RegIdx) (x : Ctx) : (s.putCtx c x).trngUsed = s.trngUsed := rfl
@[simp] theorem putCtx_freeReads (c : RegIdx) (x : Ctx) : (s.putCtx c x).freeReads = s.freeReads := rfl

/-! ### putLfsr -/

@[simp] theorem putLfsr_cfg (l : Lfsr) : (s.putLfsr l).cfg = s.cfg := rfl
@[simp] theorem putLfsr_v (l : Lfsr) : (s.putLfsr l).v = s.v := rfl
@[simp] theorem putLfsr_m (l : Lfsr) : (s.putLfsr l).m = s.m := rfl
@[simp] theorem putLfsr_sh (l : Lfsr) : (s.putLfsr l).sh = s.sh := rfl
@[simp] theorem putLfsr_tr (l : Lfsr) : (s.putLfsr l).tr = s.tr := rfl
@[simp] theorem putLfsr_views (l : Lfsr) : (s.putLfsr l).views = s.views := rfl
@[simp] theorem putLfsr_vptr (l : Lfsr) : (s.putLfsr l).vptr = s.vptr := rfl
@[simp] theorem putLfsr_parties (l : Lfsr) : (s.putLfsr l).parties = s.parties := rfl
@[simp] theorem putLfsr_lfsr (l : Lfsr) : (s.putLfsr l).lfsr = l := rfl
@[simp] theorem putLfsr_cx (l : Lfsr) : (s.putLfsr l).cx = s.cx := rfl
@[simp] theorem putLfsr_result (l : Lfsr) : (s.putLfsr l).result = s.result := rfl
@[simp] theorem putLfsr_retries (l : Lfsr) : (s.putLfsr l).retries = s.retries := rfl
@[simp] theorem putLfsr_argA (l : Lfsr) : (s.putLfsr l).argA = s.argA := rfl
@[simp] theorem putLfsr_argB (l : Lfsr) : (s.putLfsr l).argB = s.argB := rfl
@[simp] theorem putLfsr_ieDone (l : Lfsr) : (s.putLfsr l).ieDone = s.ieDone := rfl
@[simp] theorem putLfsr_ieErr (l : Lfsr) : (s.putLfsr l).ieErr = s.ieErr := rfl
@[simp] theorem putLfsr_notAll (l : Lfsr) : (s.putLfsr l).notAll = s.notAll := rfl
@[simp] theorem putLfsr_done (l : Lfsr) : (s.putLfsr l).done = s.done := rfl
@[simp] theorem putLfsr_drop (l : Lfsr) : (s.putLfsr l).drop = s.drop := rfl
@[simp] theorem putLfsr_err (l : Lfsr) : (s.putLfsr l).err = s.err := rfl
@[simp] theorem putLfsr_errCmd (l : Lfsr) : (s.putLfsr l).errCmd = s.errCmd := rfl
@[simp] theorem putLfsr_wsel (l : Lfsr) : (s.putLfsr l).wsel = s.wsel := rfl
@[simp] theorem putLfsr_phase (l : Lfsr) : (s.putLfsr l).phase = s.phase := rfl
@[simp] theorem putLfsr_env (l : Lfsr) : (s.putLfsr l).env = s.env := rfl
@[simp] theorem putLfsr_rdata (l : Lfsr) : (s.putLfsr l).rdata = s.rdata := rfl
@[simp] theorem putLfsr_trngUsed (l : Lfsr) : (s.putLfsr l).trngUsed = s.trngUsed := rfl
@[simp] theorem putLfsr_freeReads (l : Lfsr) : (s.putLfsr l).freeReads = s.freeReads := rfl

/-! ### putResult -/

@[simp] theorem putResult_cfg (x : Word) : (s.putResult x).cfg = s.cfg := rfl
@[simp] theorem putResult_v (x : Word) : (s.putResult x).v = s.v := rfl
@[simp] theorem putResult_m (x : Word) : (s.putResult x).m = s.m := rfl
@[simp] theorem putResult_sh (x : Word) : (s.putResult x).sh = s.sh := rfl
@[simp] theorem putResult_tr (x : Word) : (s.putResult x).tr = s.tr := rfl
@[simp] theorem putResult_views (x : Word) : (s.putResult x).views = s.views := rfl
@[simp] theorem putResult_vptr (x : Word) : (s.putResult x).vptr = s.vptr := rfl
@[simp] theorem putResult_parties (x : Word) : (s.putResult x).parties = s.parties := rfl
@[simp] theorem putResult_lfsr (x : Word) : (s.putResult x).lfsr = s.lfsr := rfl
@[simp] theorem putResult_cx (x : Word) : (s.putResult x).cx = s.cx := rfl
@[simp] theorem putResult_result (x : Word) : (s.putResult x).result = x := rfl
@[simp] theorem putResult_retries (x : Word) : (s.putResult x).retries = s.retries := rfl
@[simp] theorem putResult_argA (x : Word) : (s.putResult x).argA = s.argA := rfl
@[simp] theorem putResult_argB (x : Word) : (s.putResult x).argB = s.argB := rfl
@[simp] theorem putResult_ieDone (x : Word) : (s.putResult x).ieDone = s.ieDone := rfl
@[simp] theorem putResult_ieErr (x : Word) : (s.putResult x).ieErr = s.ieErr := rfl
@[simp] theorem putResult_notAll (x : Word) : (s.putResult x).notAll = s.notAll := rfl
@[simp] theorem putResult_done (x : Word) : (s.putResult x).done = s.done := rfl
@[simp] theorem putResult_drop (x : Word) : (s.putResult x).drop = s.drop := rfl
@[simp] theorem putResult_err (x : Word) : (s.putResult x).err = s.err := rfl
@[simp] theorem putResult_errCmd (x : Word) : (s.putResult x).errCmd = s.errCmd := rfl
@[simp] theorem putResult_wsel (x : Word) : (s.putResult x).wsel = s.wsel := rfl
@[simp] theorem putResult_phase (x : Word) : (s.putResult x).phase = s.phase := rfl
@[simp] theorem putResult_env (x : Word) : (s.putResult x).env = s.env := rfl
@[simp] theorem putResult_rdata (x : Word) : (s.putResult x).rdata = s.rdata := rfl
@[simp] theorem putResult_trngUsed (x : Word) : (s.putResult x).trngUsed = s.trngUsed := rfl
@[simp] theorem putResult_freeReads (x : Word) : (s.putResult x).freeReads = s.freeReads := rfl

/-! ### putRetries -/

@[simp] theorem putRetries_cfg (x : Word) : (s.putRetries x).cfg = s.cfg := rfl
@[simp] theorem putRetries_v (x : Word) : (s.putRetries x).v = s.v := rfl
@[simp] theorem putRetries_m (x : Word) : (s.putRetries x).m = s.m := rfl
@[simp] theorem putRetries_sh (x : Word) : (s.putRetries x).sh = s.sh := rfl
@[simp] theorem putRetries_tr (x : Word) : (s.putRetries x).tr = s.tr := rfl
@[simp] theorem putRetries_views (x : Word) : (s.putRetries x).views = s.views := rfl
@[simp] theorem putRetries_vptr (x : Word) : (s.putRetries x).vptr = s.vptr := rfl
@[simp] theorem putRetries_parties (x : Word) : (s.putRetries x).parties = s.parties := rfl
@[simp] theorem putRetries_lfsr (x : Word) : (s.putRetries x).lfsr = s.lfsr := rfl
@[simp] theorem putRetries_cx (x : Word) : (s.putRetries x).cx = s.cx := rfl
@[simp] theorem putRetries_result (x : Word) : (s.putRetries x).result = s.result := rfl
@[simp] theorem putRetries_retries (x : Word) : (s.putRetries x).retries = x := rfl
@[simp] theorem putRetries_argA (x : Word) : (s.putRetries x).argA = s.argA := rfl
@[simp] theorem putRetries_argB (x : Word) : (s.putRetries x).argB = s.argB := rfl
@[simp] theorem putRetries_ieDone (x : Word) : (s.putRetries x).ieDone = s.ieDone := rfl
@[simp] theorem putRetries_ieErr (x : Word) : (s.putRetries x).ieErr = s.ieErr := rfl
@[simp] theorem putRetries_notAll (x : Word) : (s.putRetries x).notAll = s.notAll := rfl
@[simp] theorem putRetries_done (x : Word) : (s.putRetries x).done = s.done := rfl
@[simp] theorem putRetries_drop (x : Word) : (s.putRetries x).drop = s.drop := rfl
@[simp] theorem putRetries_err (x : Word) : (s.putRetries x).err = s.err := rfl
@[simp] theorem putRetries_errCmd (x : Word) : (s.putRetries x).errCmd = s.errCmd := rfl
@[simp] theorem putRetries_wsel (x : Word) : (s.putRetries x).wsel = s.wsel := rfl
@[simp] theorem putRetries_phase (x : Word) : (s.putRetries x).phase = s.phase := rfl
@[simp] theorem putRetries_env (x : Word) : (s.putRetries x).env = s.env := rfl
@[simp] theorem putRetries_rdata (x : Word) : (s.putRetries x).rdata = s.rdata := rfl
@[simp] theorem putRetries_trngUsed (x : Word) : (s.putRetries x).trngUsed = s.trngUsed := rfl
@[simp] theorem putRetries_freeReads (x : Word) : (s.putRetries x).freeReads = s.freeReads := rfl

/-! ### putViews -/

@[simp] theorem putViews_cfg (x : List Vec) (k : Nat) : (s.putViews x k).cfg = s.cfg := rfl
@[simp] theorem putViews_v (x : List Vec) (k : Nat) : (s.putViews x k).v = s.v := rfl
@[simp] theorem putViews_m (x : List Vec) (k : Nat) : (s.putViews x k).m = s.m := rfl
@[simp] theorem putViews_sh (x : List Vec) (k : Nat) : (s.putViews x k).sh = s.sh := rfl
@[simp] theorem putViews_tr (x : List Vec) (k : Nat) : (s.putViews x k).tr = s.tr := rfl
@[simp] theorem putViews_views (x : List Vec) (k : Nat) : (s.putViews x k).views = x := rfl
@[simp] theorem putViews_vptr (x : List Vec) (k : Nat) : (s.putViews x k).vptr = k := rfl
@[simp] theorem putViews_parties (x : List Vec) (k : Nat) : (s.putViews x k).parties = s.parties := rfl
@[simp] theorem putViews_lfsr (x : List Vec) (k : Nat) : (s.putViews x k).lfsr = s.lfsr := rfl
@[simp] theorem putViews_cx (x : List Vec) (k : Nat) : (s.putViews x k).cx = s.cx := rfl
@[simp] theorem putViews_result (x : List Vec) (k : Nat) : (s.putViews x k).result = s.result := rfl
@[simp] theorem putViews_retries (x : List Vec) (k : Nat) : (s.putViews x k).retries = s.retries := rfl
@[simp] theorem putViews_argA (x : List Vec) (k : Nat) : (s.putViews x k).argA = s.argA := rfl
@[simp] theorem putViews_argB (x : List Vec) (k : Nat) : (s.putViews x k).argB = s.argB := rfl
@[simp] theorem putViews_ieDone (x : List Vec) (k : Nat) : (s.putViews x k).ieDone = s.ieDone := rfl
@[simp] theorem putViews_ieErr (x : List Vec) (k : Nat) : (s.putViews x k).ieErr = s.ieErr := rfl
@[simp] theorem putViews_notAll (x : List Vec) (k : Nat) : (s.putViews x k).notAll = s.notAll := rfl
@[simp] theorem putViews_done (x : List Vec) (k : Nat) : (s.putViews x k).done = s.done := rfl
@[simp] theorem putViews_drop (x : List Vec) (k : Nat) : (s.putViews x k).drop = s.drop := rfl
@[simp] theorem putViews_err (x : List Vec) (k : Nat) : (s.putViews x k).err = s.err := rfl
@[simp] theorem putViews_errCmd (x : List Vec) (k : Nat) : (s.putViews x k).errCmd = s.errCmd := rfl
@[simp] theorem putViews_wsel (x : List Vec) (k : Nat) : (s.putViews x k).wsel = s.wsel := rfl
@[simp] theorem putViews_phase (x : List Vec) (k : Nat) : (s.putViews x k).phase = s.phase := rfl
@[simp] theorem putViews_env (x : List Vec) (k : Nat) : (s.putViews x k).env = s.env := rfl
@[simp] theorem putViews_rdata (x : List Vec) (k : Nat) : (s.putViews x k).rdata = s.rdata := rfl
@[simp] theorem putViews_trngUsed (x : List Vec) (k : Nat) : (s.putViews x k).trngUsed = s.trngUsed := rfl
@[simp] theorem putViews_freeReads (x : List Vec) (k : Nat) : (s.putViews x k).freeReads = s.freeReads := rfl

/-! ### accept -/

@[simp] theorem accept_cfg (w : Word) : (s.accept w).cfg = s.cfg := rfl
@[simp] theorem accept_v (w : Word) : (s.accept w).v = s.v := rfl
@[simp] theorem accept_m (w : Word) : (s.accept w).m = s.m := rfl
@[simp] theorem accept_sh (w : Word) : (s.accept w).sh = s.sh := rfl
@[simp] theorem accept_tr (w : Word) : (s.accept w).tr = s.tr := rfl
@[simp] theorem accept_views (w : Word) : (s.accept w).views = s.views := rfl
@[simp] theorem accept_vptr (w : Word) : (s.accept w).vptr = s.vptr := rfl
@[simp] theorem accept_parties (w : Word) : (s.accept w).parties = s.parties := rfl
@[simp] theorem accept_lfsr (w : Word) : (s.accept w).lfsr = s.lfsr := rfl
@[simp] theorem accept_cx (w : Word) : (s.accept w).cx = s.cx := rfl
@[simp] theorem accept_result (w : Word) : (s.accept w).result = s.result := rfl
@[simp] theorem accept_retries (w : Word) : (s.accept w).retries = s.retries := rfl
@[simp] theorem accept_argA (w : Word) : (s.accept w).argA = s.argA := rfl
@[simp] theorem accept_argB (w : Word) : (s.accept w).argB = s.argB := rfl
@[simp] theorem accept_ieDone (w : Word) : (s.accept w).ieDone = s.ieDone := rfl
@[simp] theorem accept_ieErr (w : Word) : (s.accept w).ieErr = s.ieErr := rfl
@[simp] theorem accept_notAll (w : Word) : (s.accept w).notAll = s.notAll := rfl
@[simp] theorem accept_done (w : Word) : (s.accept w).done = false := rfl
@[simp] theorem accept_drop (w : Word) : (s.accept w).drop = s.drop := rfl
@[simp] theorem accept_err (w : Word) : (s.accept w).err = s.err := rfl
@[simp] theorem accept_errCmd (w : Word) : (s.accept w).errCmd = s.errCmd := rfl
@[simp] theorem accept_wsel (w : Word) : (s.accept w).wsel = s.wsel := rfl
@[simp] theorem accept_phase (w : Word) : (s.accept w).phase = .running (s.sample w) := rfl
@[simp] theorem accept_env (w : Word) : (s.accept w).env = s.env := rfl
@[simp] theorem accept_rdata (w : Word) : (s.accept w).rdata = s.rdata := rfl
@[simp] theorem accept_trngUsed (w : Word) : (s.accept w).trngUsed = s.trngUsed := rfl
@[simp] theorem accept_freeReads (w : Word) : (s.accept w).freeReads = s.freeReads := rfl

/-! ### retire -/

@[simp] theorem retire_cfg : (s.retire).cfg = s.cfg := rfl
@[simp] theorem retire_v : (s.retire).v = s.v := rfl
@[simp] theorem retire_m : (s.retire).m = s.m := rfl
@[simp] theorem retire_sh : (s.retire).sh = s.sh := rfl
@[simp] theorem retire_tr : (s.retire).tr = s.tr := rfl
@[simp] theorem retire_views : (s.retire).views = s.views := rfl
@[simp] theorem retire_vptr : (s.retire).vptr = s.vptr := rfl
@[simp] theorem retire_parties : (s.retire).parties = s.parties := rfl
@[simp] theorem retire_lfsr : (s.retire).lfsr = s.lfsr := rfl
@[simp] theorem retire_cx : (s.retire).cx = s.cx := rfl
@[simp] theorem retire_result : (s.retire).result = s.result := rfl
@[simp] theorem retire_retries : (s.retire).retries = s.retries := rfl
@[simp] theorem retire_argA : (s.retire).argA = s.argA := rfl
@[simp] theorem retire_argB : (s.retire).argB = s.argB := rfl
@[simp] theorem retire_ieDone : (s.retire).ieDone = s.ieDone := rfl
@[simp] theorem retire_ieErr : (s.retire).ieErr = s.ieErr := rfl
@[simp] theorem retire_notAll : (s.retire).notAll = s.notAll := rfl
@[simp] theorem retire_done : (s.retire).done = true := rfl
@[simp] theorem retire_drop : (s.retire).drop = s.drop := rfl
@[simp] theorem retire_err : (s.retire).err = s.err := rfl
@[simp] theorem retire_errCmd : (s.retire).errCmd = s.errCmd := rfl
@[simp] theorem retire_wsel : (s.retire).wsel = s.wsel := rfl
@[simp] theorem retire_phase : (s.retire).phase = .idle := rfl
@[simp] theorem retire_env : (s.retire).env = s.env := rfl
@[simp] theorem retire_rdata : (s.retire).rdata = s.rdata := rfl
@[simp] theorem retire_trngUsed : (s.retire).trngUsed = s.trngUsed := rfl
@[simp] theorem retire_freeReads : (s.retire).freeReads = s.freeReads := rfl

/-! ### failCommand -/

@[simp] theorem failCommand_cfg (e : CmdError) : (s.failCommand e).cfg = s.cfg := rfl
@[simp] theorem failCommand_v (e : CmdError) : (s.failCommand e).v = s.v := rfl
@[simp] theorem failCommand_m (e : CmdError) : (s.failCommand e).m = s.m := rfl
@[simp] theorem failCommand_sh (e : CmdError) : (s.failCommand e).sh = s.sh := rfl
@[simp] theorem failCommand_tr (e : CmdError) : (s.failCommand e).tr = s.tr := rfl
@[simp] theorem failCommand_views (e : CmdError) : (s.failCommand e).views = s.views := rfl
@[simp] theorem failCommand_vptr (e : CmdError) : (s.failCommand e).vptr = s.vptr := rfl
@[simp] theorem failCommand_parties (e : CmdError) : (s.failCommand e).parties = s.parties := rfl
@[simp] theorem failCommand_lfsr (e : CmdError) : (s.failCommand e).lfsr = s.lfsr := rfl
@[simp] theorem failCommand_cx (e : CmdError) : (s.failCommand e).cx = s.cx := rfl
@[simp] theorem failCommand_result (e : CmdError) : (s.failCommand e).result = s.result := rfl
@[simp] theorem failCommand_retries (e : CmdError) : (s.failCommand e).retries = s.retries := rfl
@[simp] theorem failCommand_argA (e : CmdError) : (s.failCommand e).argA = s.argA := rfl
@[simp] theorem failCommand_argB (e : CmdError) : (s.failCommand e).argB = s.argB := rfl
@[simp] theorem failCommand_ieDone (e : CmdError) : (s.failCommand e).ieDone = s.ieDone := rfl
@[simp] theorem failCommand_ieErr (e : CmdError) : (s.failCommand e).ieErr = s.ieErr := rfl
@[simp] theorem failCommand_notAll (e : CmdError) : (s.failCommand e).notAll = s.notAll := rfl
@[simp] theorem failCommand_done (e : CmdError) : (s.failCommand e).done = true := rfl
@[simp] theorem failCommand_drop (e : CmdError) : (s.failCommand e).drop = s.drop := rfl
@[simp] theorem failCommand_err (e : CmdError) : (s.failCommand e).err = some e := rfl
@[simp] theorem failCommand_errCmd (e : CmdError) : (s.failCommand e).errCmd = s.job.word := rfl
@[simp] theorem failCommand_wsel (e : CmdError) : (s.failCommand e).wsel = s.wsel := rfl
@[simp] theorem failCommand_phase (e : CmdError) : (s.failCommand e).phase = .idle := rfl
@[simp] theorem failCommand_env (e : CmdError) : (s.failCommand e).env = s.env := rfl
@[simp] theorem failCommand_rdata (e : CmdError) : (s.failCommand e).rdata = s.rdata := rfl
@[simp] theorem failCommand_trngUsed (e : CmdError) : (s.failCommand e).trngUsed = s.trngUsed := rfl
@[simp] theorem failCommand_freeReads (e : CmdError) : (s.failCommand e).freeReads = s.freeReads := rfl

/-! ### clearError -/

@[simp] theorem clearError_cfg : (s.clearError).cfg = s.cfg := rfl
@[simp] theorem clearError_v : (s.clearError).v = s.v := rfl
@[simp] theorem clearError_m : (s.clearError).m = s.m := rfl
@[simp] theorem clearError_sh : (s.clearError).sh = s.sh := rfl
@[simp] theorem clearError_tr : (s.clearError).tr = s.tr := rfl
@[simp] theorem clearError_views : (s.clearError).views = s.views := rfl
@[simp] theorem clearError_vptr : (s.clearError).vptr = s.vptr := rfl
@[simp] theorem clearError_parties : (s.clearError).parties = s.parties := rfl
@[simp] theorem clearError_lfsr : (s.clearError).lfsr = s.lfsr := rfl
@[simp] theorem clearError_cx : (s.clearError).cx = s.cx := rfl
@[simp] theorem clearError_result : (s.clearError).result = s.result := rfl
@[simp] theorem clearError_retries : (s.clearError).retries = s.retries := rfl
@[simp] theorem clearError_argA : (s.clearError).argA = s.argA := rfl
@[simp] theorem clearError_argB : (s.clearError).argB = s.argB := rfl
@[simp] theorem clearError_ieDone : (s.clearError).ieDone = s.ieDone := rfl
@[simp] theorem clearError_ieErr : (s.clearError).ieErr = s.ieErr := rfl
@[simp] theorem clearError_notAll : (s.clearError).notAll = s.notAll := rfl
@[simp] theorem clearError_done : (s.clearError).done = s.done := rfl
@[simp] theorem clearError_drop : (s.clearError).drop = s.drop := rfl
@[simp] theorem clearError_err : (s.clearError).err = none := rfl
@[simp] theorem clearError_errCmd : (s.clearError).errCmd = 0 := rfl
@[simp] theorem clearError_wsel : (s.clearError).wsel = s.wsel := rfl
@[simp] theorem clearError_phase : (s.clearError).phase = s.phase := rfl
@[simp] theorem clearError_env : (s.clearError).env = s.env := rfl
@[simp] theorem clearError_rdata : (s.clearError).rdata = s.rdata := rfl
@[simp] theorem clearError_trngUsed : (s.clearError).trngUsed = s.trngUsed := rfl
@[simp] theorem clearError_freeReads : (s.clearError).freeReads = s.freeReads := rfl

/-! ### endClearing -/

@[simp] theorem endClearing_cfg : (s.endClearing).cfg = s.cfg := rfl
@[simp] theorem endClearing_v : (s.endClearing).v = s.v := rfl
@[simp] theorem endClearing_m : (s.endClearing).m = s.m := rfl
@[simp] theorem endClearing_sh : (s.endClearing).sh = s.sh := rfl
@[simp] theorem endClearing_tr : (s.endClearing).tr = s.tr := rfl
@[simp] theorem endClearing_views : (s.endClearing).views = s.views := rfl
@[simp] theorem endClearing_vptr : (s.endClearing).vptr = s.vptr := rfl
@[simp] theorem endClearing_parties : (s.endClearing).parties = s.parties := rfl
@[simp] theorem endClearing_lfsr : (s.endClearing).lfsr = s.lfsr := rfl
@[simp] theorem endClearing_cx : (s.endClearing).cx = s.cx := rfl
@[simp] theorem endClearing_result : (s.endClearing).result = s.result := rfl
@[simp] theorem endClearing_retries : (s.endClearing).retries = s.retries := rfl
@[simp] theorem endClearing_argA : (s.endClearing).argA = s.argA := rfl
@[simp] theorem endClearing_argB : (s.endClearing).argB = s.argB := rfl
@[simp] theorem endClearing_ieDone : (s.endClearing).ieDone = s.ieDone := rfl
@[simp] theorem endClearing_ieErr : (s.endClearing).ieErr = s.ieErr := rfl
@[simp] theorem endClearing_notAll : (s.endClearing).notAll = s.notAll := rfl
@[simp] theorem endClearing_done : (s.endClearing).done = s.done := rfl
@[simp] theorem endClearing_drop : (s.endClearing).drop = s.drop := rfl
@[simp] theorem endClearing_err : (s.endClearing).err = s.err := rfl
@[simp] theorem endClearing_errCmd : (s.endClearing).errCmd = s.errCmd := rfl
@[simp] theorem endClearing_wsel : (s.endClearing).wsel = s.wsel := rfl
@[simp] theorem endClearing_phase : (s.endClearing).phase = .idle := rfl
@[simp] theorem endClearing_env : (s.endClearing).env = s.env := rfl
@[simp] theorem endClearing_rdata : (s.endClearing).rdata = s.rdata := rfl
@[simp] theorem endClearing_trngUsed : (s.endClearing).trngUsed = s.trngUsed := rfl
@[simp] theorem endClearing_freeReads : (s.endClearing).freeReads = s.freeReads := rfl

/-! ### setDrop -/

@[simp] theorem setDrop_cfg : (s.setDrop).cfg = s.cfg := rfl
@[simp] theorem setDrop_v : (s.setDrop).v = s.v := rfl
@[simp] theorem setDrop_m : (s.setDrop).m = s.m := rfl
@[simp] theorem setDrop_sh : (s.setDrop).sh = s.sh := rfl
@[simp] theorem setDrop_tr : (s.setDrop).tr = s.tr := rfl
@[simp] theorem setDrop_views : (s.setDrop).views = s.views := rfl
@[simp] theorem setDrop_vptr : (s.setDrop).vptr = s.vptr := rfl
@[simp] theorem setDrop_parties : (s.setDrop).parties = s.parties := rfl
@[simp] theorem setDrop_lfsr : (s.setDrop).lfsr = s.lfsr := rfl
@[simp] theorem setDrop_cx : (s.setDrop).cx = s.cx := rfl
@[simp] theorem setDrop_result : (s.setDrop).result = s.result := rfl
@[simp] theorem setDrop_retries : (s.setDrop).retries = s.retries := rfl
@[simp] theorem setDrop_argA : (s.setDrop).argA = s.argA := rfl
@[simp] theorem setDrop_argB : (s.setDrop).argB = s.argB := rfl
@[simp] theorem setDrop_ieDone : (s.setDrop).ieDone = s.ieDone := rfl
@[simp] theorem setDrop_ieErr : (s.setDrop).ieErr = s.ieErr := rfl
@[simp] theorem setDrop_notAll : (s.setDrop).notAll = s.notAll := rfl
@[simp] theorem setDrop_done : (s.setDrop).done = s.done := rfl
@[simp] theorem setDrop_drop : (s.setDrop).drop = true := rfl
@[simp] theorem setDrop_err : (s.setDrop).err = s.err := rfl
@[simp] theorem setDrop_errCmd : (s.setDrop).errCmd = s.errCmd := rfl
@[simp] theorem setDrop_wsel : (s.setDrop).wsel = s.wsel := rfl
@[simp] theorem setDrop_phase : (s.setDrop).phase = s.phase := rfl
@[simp] theorem setDrop_env : (s.setDrop).env = s.env := rfl
@[simp] theorem setDrop_rdata : (s.setDrop).rdata = s.rdata := rfl
@[simp] theorem setDrop_trngUsed : (s.setDrop).trngUsed = s.trngUsed := rfl
@[simp] theorem setDrop_freeReads : (s.setDrop).freeReads = s.freeReads := rfl

/-! ### putRdata -/

@[simp] theorem putRdata_cfg (x : Word) : (s.putRdata x).cfg = s.cfg := rfl
@[simp] theorem putRdata_v (x : Word) : (s.putRdata x).v = s.v := rfl
@[simp] theorem putRdata_m (x : Word) : (s.putRdata x).m = s.m := rfl
@[simp] theorem putRdata_sh (x : Word) : (s.putRdata x).sh = s.sh := rfl
@[simp] theorem putRdata_tr (x : Word) : (s.putRdata x).tr = s.tr := rfl
@[simp] theorem putRdata_views (x : Word) : (s.putRdata x).views = s.views := rfl
@[simp] theorem putRdata_vptr (x : Word) : (s.putRdata x).vptr = s.vptr := rfl
@[simp] theorem putRdata_parties (x : Word) : (s.putRdata x).parties = s.parties := rfl
@[simp] theorem putRdata_lfsr (x : Word) : (s.putRdata x).lfsr = s.lfsr := rfl
@[simp] theorem putRdata_cx (x : Word) : (s.putRdata x).cx = s.cx := rfl
@[simp] theorem putRdata_result (x : Word) : (s.putRdata x).result = s.result := rfl
@[simp] theorem putRdata_retries (x : Word) : (s.putRdata x).retries = s.retries := rfl
@[simp] theorem putRdata_argA (x : Word) : (s.putRdata x).argA = s.argA := rfl
@[simp] theorem putRdata_argB (x : Word) : (s.putRdata x).argB = s.argB := rfl
@[simp] theorem putRdata_ieDone (x : Word) : (s.putRdata x).ieDone = s.ieDone := rfl
@[simp] theorem putRdata_ieErr (x : Word) : (s.putRdata x).ieErr = s.ieErr := rfl
@[simp] theorem putRdata_notAll (x : Word) : (s.putRdata x).notAll = s.notAll := rfl
@[simp] theorem putRdata_done (x : Word) : (s.putRdata x).done = s.done := rfl
@[simp] theorem putRdata_drop (x : Word) : (s.putRdata x).drop = s.drop := rfl
@[simp] theorem putRdata_err (x : Word) : (s.putRdata x).err = s.err := rfl
@[simp] theorem putRdata_errCmd (x : Word) : (s.putRdata x).errCmd = s.errCmd := rfl
@[simp] theorem putRdata_wsel (x : Word) : (s.putRdata x).wsel = s.wsel := rfl
@[simp] theorem putRdata_phase (x : Word) : (s.putRdata x).phase = s.phase := rfl
@[simp] theorem putRdata_env (x : Word) : (s.putRdata x).env = s.env := rfl
@[simp] theorem putRdata_rdata (x : Word) : (s.putRdata x).rdata = x := rfl
@[simp] theorem putRdata_trngUsed (x : Word) : (s.putRdata x).trngUsed = s.trngUsed := rfl
@[simp] theorem putRdata_freeReads (x : Word) : (s.putRdata x).freeReads = s.freeReads := rfl

/-! ### writeCxp -/

@[simp] theorem writeCxp_cfg (c : Nat) (par : CxParams) : (s.writeCxp c par).cfg = s.cfg := rfl
@[simp] theorem writeCxp_v (c : Nat) (par : CxParams) : (s.writeCxp c par).v = s.v := rfl
@[simp] theorem writeCxp_m (c : Nat) (par : CxParams) : (s.writeCxp c par).m = s.m := rfl
@[simp] theorem writeCxp_sh (c : Nat) (par : CxParams) : (s.writeCxp c par).sh = s.sh := rfl
@[simp] theorem writeCxp_tr (c : Nat) (par : CxParams) : (s.writeCxp c par).tr = s.tr := rfl
@[simp] theorem writeCxp_views (c : Nat) (par : CxParams) : (s.writeCxp c par).views = s.views := rfl
@[simp] theorem writeCxp_vptr (c : Nat) (par : CxParams) : (s.writeCxp c par).vptr = s.vptr := rfl
@[simp] theorem writeCxp_parties (c : Nat) (par : CxParams) : (s.writeCxp c par).parties = s.parties := rfl
@[simp] theorem writeCxp_lfsr (c : Nat) (par : CxParams) : (s.writeCxp c par).lfsr = s.lfsr := rfl
@[simp] theorem writeCxp_cx (c : Nat) (par : CxParams) : (s.writeCxp c par).cx = s.cx.set c { s.cx.getD c .empty with par := par, inst := false, keyed := false } := rfl
@[simp] theorem writeCxp_result (c : Nat) (par : CxParams) : (s.writeCxp c par).result = s.result := rfl
@[simp] theorem writeCxp_retries (c : Nat) (par : CxParams) : (s.writeCxp c par).retries = s.retries := rfl
@[simp] theorem writeCxp_argA (c : Nat) (par : CxParams) : (s.writeCxp c par).argA = s.argA := rfl
@[simp] theorem writeCxp_argB (c : Nat) (par : CxParams) : (s.writeCxp c par).argB = s.argB := rfl
@[simp] theorem writeCxp_ieDone (c : Nat) (par : CxParams) : (s.writeCxp c par).ieDone = s.ieDone := rfl
@[simp] theorem writeCxp_ieErr (c : Nat) (par : CxParams) : (s.writeCxp c par).ieErr = s.ieErr := rfl
@[simp] theorem writeCxp_notAll (c : Nat) (par : CxParams) : (s.writeCxp c par).notAll = s.notAll := rfl
@[simp] theorem writeCxp_done (c : Nat) (par : CxParams) : (s.writeCxp c par).done = s.done := rfl
@[simp] theorem writeCxp_drop (c : Nat) (par : CxParams) : (s.writeCxp c par).drop = s.drop := rfl
@[simp] theorem writeCxp_err (c : Nat) (par : CxParams) : (s.writeCxp c par).err = s.err := rfl
@[simp] theorem writeCxp_errCmd (c : Nat) (par : CxParams) : (s.writeCxp c par).errCmd = s.errCmd := rfl
@[simp] theorem writeCxp_wsel (c : Nat) (par : CxParams) : (s.writeCxp c par).wsel = s.wsel := rfl
@[simp] theorem writeCxp_phase (c : Nat) (par : CxParams) : (s.writeCxp c par).phase = s.phase := rfl
@[simp] theorem writeCxp_env (c : Nat) (par : CxParams) : (s.writeCxp c par).env = s.env := rfl
@[simp] theorem writeCxp_rdata (c : Nat) (par : CxParams) : (s.writeCxp c par).rdata = s.rdata := rfl
@[simp] theorem writeCxp_trngUsed (c : Nat) (par : CxParams) : (s.writeCxp c par).trngUsed = s.trngUsed := rfl
@[simp] theorem writeCxp_freeReads (c : Nat) (par : CxParams) : (s.writeCxp c par).freeReads = s.freeReads := rfl

/-! ### hardReset -/

@[simp] theorem hardReset_cfg : (s.hardReset).cfg = s.cfg := rfl
@[simp] theorem hardReset_v : (s.hardReset).v = List.replicate s.cfg.nv .empty := rfl
@[simp] theorem hardReset_m : (s.hardReset).m = List.replicate s.cfg.nm (.empty s.cfg) := rfl
@[simp] theorem hardReset_sh : (s.hardReset).sh = List.replicate s.cfg.ns .empty := rfl
@[simp] theorem hardReset_tr : (s.hardReset).tr = List.replicate s.cfg.nt .empty := rfl
@[simp] theorem hardReset_views : (s.hardReset).views = List.replicate s.cfg.pmax [] := rfl
@[simp] theorem hardReset_vptr : (s.hardReset).vptr = 0 := rfl
@[simp] theorem hardReset_parties : (s.hardReset).parties = 0 := rfl
@[simp] theorem hardReset_lfsr : (s.hardReset).lfsr = .reset := rfl
@[simp] theorem hardReset_cx : (s.hardReset).cx = List.replicate s.cfg.nctx .empty := rfl
@[simp] theorem hardReset_result : (s.hardReset).result = 0 := rfl
@[simp] theorem hardReset_retries : (s.hardReset).retries = 0 := rfl
@[simp] theorem hardReset_argA : (s.hardReset).argA = 0 := rfl
@[simp] theorem hardReset_argB : (s.hardReset).argB = 0 := rfl
@[simp] theorem hardReset_ieDone : (s.hardReset).ieDone = false := rfl
@[simp] theorem hardReset_ieErr : (s.hardReset).ieErr = false := rfl
@[simp] theorem hardReset_notAll : (s.hardReset).notAll = false := rfl
@[simp] theorem hardReset_done : (s.hardReset).done = false := rfl
@[simp] theorem hardReset_drop : (s.hardReset).drop = false := rfl
@[simp] theorem hardReset_err : (s.hardReset).err = none := rfl
@[simp] theorem hardReset_errCmd : (s.hardReset).errCmd = 0 := rfl
@[simp] theorem hardReset_wsel : (s.hardReset).wsel = 0 := rfl
@[simp] theorem hardReset_phase : (s.hardReset).phase = .clearing := rfl
@[simp] theorem hardReset_env : (s.hardReset).env = s.env := rfl
@[simp] theorem hardReset_rdata : (s.hardReset).rdata = s.rdata := rfl
@[simp] theorem hardReset_trngUsed : (s.hardReset).trngUsed = s.trngUsed := rfl
@[simp] theorem hardReset_freeReads : (s.hardReset).freeReads = s.freeReads := rfl

end Sys2Proof.Machine
end

