-- ==== Sys2Proof/Laws/Ops.lean ====
section
/-! SUPPORT. The laws of the shared operations (Machine/Ops.lean): reading a register file after a write, and what the
completion of a command can come to. -/

namespace Sys2Proof.Machine

variable {s : State}

/-! ### Reading a register file after a write -/

theorem vreg_putVec_same {d : RegIdx} {v : Vec} (h : d.toNat < s.v.length) :
    (s.putVec d v).vreg d = { len := v.length, bits := storeOf 2047 v } := by
  simp [State.vreg, h]

theorem vreg_putVec_other {d i : RegIdx} {v : Vec} (h : i ≠ d) : (s.putVec d v).vreg i = s.vreg i := by
  have : d.toNat ≠ i.toNat := fun e => h (BitVec.eq_of_toNat_eq e.symm)
  simp [State.vreg, this]

/-- A vector value that fits the storage reads back as it was written (rule R15). -/
theorem vec_putVec_same {d : RegIdx} {v : Vec} (h : d.toNat < s.v.length) (hv : v.length ≤ 2047) :
    (s.putVec d v).vec d = v := by
  rw [State.vec, vreg_putVec_same h, valueOf_storeOf hv]

theorem vec_putVec_other {d i : RegIdx} {v : Vec} (h : i ≠ d) : (s.putVec d v).vec i = s.vec i := by
  rw [State.vec, vreg_putVec_other h, State.vec]

theorem vreg_putVecBit_same {d : RegIdx} {k : Nat} {b : Bool} (h : d.toNat < s.v.length) :
    (s.putVecBit d k b).vreg d = { s.vreg d with bits := putBit k b (s.vreg d).bits } := by
  simp [State.vreg, h]

theorem mreg_putMat_same {d : RegIdx} {A : Mat} (h : d.toNat < s.m.length) :
    (s.putMat d A).mreg d = matStore s.cfg.dmax A := by
  simp [State.mreg, h]

theorem mreg_putMat_other {d i : RegIdx} {A : Mat} (h : i ≠ d) : (s.putMat d A).mreg i = s.mreg i := by
  have : d.toNat ≠ i.toNat := fun e => h (BitVec.eq_of_toNat_eq e.symm)
  simp [State.mreg, this]

/-- A matrix value that fits the storage reads back as it was written (rule R16). -/
theorem mat_putMat_same {d : RegIdx} {A : Mat} (h : d.toNat < s.m.length) (hl : A.row.length = A.rows)
    (hr : A.rows ≤ s.cfg.dmax) (hc : ∀ w ∈ A.row, w.length = A.cols) (h2 : A.cols ≤ 2047) :
    (s.putMat d A).mat d = A := by
  have hrow : ((List.range A.rows).map fun k =>
      valueOf A.cols (((List.range s.cfg.dmax).map fun r => storeOf 2047 (A.row.getD r [])).getD k 0)) = A.row := by
    apply List.ext_getElem (by simp [hl])
    intro k h3 h4
    have hk : k < s.cfg.dmax := by omega
    have hm : A.row[k] ∈ A.row := List.getElem_mem h4
    have hlen := hc _ hm
    have hv := valueOf_storeOf (n := 2047) (v := A.row[k]) (by omega)
    rw [hlen] at hv
    simp [hk, h4, hv]
  simp only [State.mat, mreg_putMat_same h, matStore, hrow]

theorem sreg_putShare_same {d : RegIdx} {n : Nat} {z : Vec} (h : d.toNat < s.sh.length) :
    (s.putShare d n z).sreg d = { cnt := n, b := partyStore z } := by
  simp [State.sreg, h]

theorem sreg_putShare_other {d i : RegIdx} {n : Nat} {z : Vec} (h : i ≠ d) : (s.putShare d n z).sreg i = s.sreg i := by
  have : d.toNat ≠ i.toNat := fun e => h (BitVec.eq_of_toNat_eq e.symm)
  simp [State.sreg, this]

/-- A share value for `n` parties reads back as it was written (rule R17). -/
theorem share_putShare_same {d : RegIdx} {z : Vec} (h : d.toNat < s.sh.length) (hz : z.length ≤ 255) :
    (s.putShare d z.length z).share z.length d = z := by
  rw [State.share, sreg_putShare_same h]
  exact valueOf_storeOf hz

theorem treg_putTriple_same {d : RegIdx} {x : TReg} (h : d.toNat < s.tr.length) : (s.putTriple d x).treg d = x := by
  simp [State.treg, h]

theorem treg_putTriple_other {d i : RegIdx} {x : TReg} (h : i ≠ d) : (s.putTriple d x).treg i = s.treg i := by
  have : d.toNat ≠ i.toNat := fun e => h (BitVec.eq_of_toNat_eq e.symm)
  simp [State.treg, this]

theorem ctx_putCtx_same {c : RegIdx} {x : Ctx} (h : c.toNat < s.cx.length) : (s.putCtx c x).ctx c = x := by
  simp [State.ctx, h]

theorem ctx_putCtx_other {c i : RegIdx} {x : Ctx} (h : i ≠ c) : (s.putCtx c x).ctx i = s.ctx i := by
  have : c.toNat ≠ i.toNat := fun e => h (BitVec.eq_of_toNat_eq e.symm)
  simp [State.ctx, this]

@[simp] theorem length_vec (i : RegIdx) : (s.vec i).length = (s.vreg i).len := by
  simp [State.vec]

theorem bitAt_vec (i : RegIdx) (j : Nat) :
    bitAt (s.vec i) j = (decide (j < (s.vreg i).len) && (s.vreg i).bits.getLsbD j) := by
  rw [State.vec, bitAt_valueOf]

@[simp] theorem mat_rows (i : RegIdx) : (s.mat i).rows = (s.mreg i).rows := rfl
@[simp] theorem mat_cols (i : RegIdx) : (s.mat i).cols = (s.mreg i).cols := rfl
@[simp] theorem length_mat_row (i : RegIdx) : (s.mat i).row.length = (s.mreg i).rows := by
  simp [State.mat]

/-- A matrix register's value has the shape its metadata gives it (rule R16). -/
theorem length_of_mem_mat_row (i : RegIdx) {w : Vec} (h : w ∈ (s.mat i).row) : w.length = (s.mreg i).cols := by
  simp only [State.mat, List.mem_map] at h
  obtain ⟨k, _, rfl⟩ := h
  simp

@[simp] theorem length_share (n : Nat) (i : RegIdx) : (s.share n i).length = n := by
  simp [State.share, partyValue]

/-! ### The completion of a command -/

/-- The checks fail with the code `e`. -/
theorem checked_fail {cs : List (Bool × CmdError)} {r : OpResult} {e : CmdError} (h : firstFail cs = some e) :
    checked cs r = .fail e := by
  simp [checked, h]

/-- Every check holds. -/
theorem checked_pass {cs : List (Bool × CmdError)} {r : OpResult} (h : firstFail cs = none) : checked cs r = r := by
  simp [checked, h]

@[simp] theorem firstFail_nil : firstFail [] = none := rfl

@[simp] theorem firstFail_cons (b : Bool) (e : CmdError) (cs : List (Bool × CmdError)) :
    firstFail ((b, e) :: cs) = if b then firstFail cs else some e := rfl

/-- No check fails exactly when each one holds. -/
theorem firstFail_eq_none {cs : List (Bool × CmdError)} : firstFail cs = none ↔ ∀ c ∈ cs, c.1 = true := by
  induction cs with
  | nil => simp
  | cons c cs ih =>
    obtain ⟨b, e⟩ := c
    cases b <;> simp [ih]

@[simp] theorem complete_ok (s t : State) : complete s (.ok t) = .next t.retire := rfl
@[simp] theorem complete_fail (s : State) (e : CmdError) : complete s (.fail e) = .next (s.failCommand e) := rfl
@[simp] theorem complete_wait (s : State) : complete s .wait = .next s := rfl

/-- Everything the completion step can do (rule R73): the operation's writes are made and the command retired, its first
failing check is recorded, or the command waits and nothing changes. -/
theorem complete_checked_cases {cs : List (Bool × CmdError)} {r : OpResult} {t : State}
    (h : complete s (checked cs r) = .next t) :
    (∃ e, firstFail cs = some e ∧ t = s.failCommand e) ∨
    (firstFail cs = none ∧ ∃ u, r = .ok u ∧ t = u.retire) ∨
    (firstFail cs = none ∧ ∃ e, r = .fail e ∧ t = s.failCommand e) ∨
    (firstFail cs = none ∧ r = .wait ∧ t = s) := by
  cases hf : firstFail cs with
  | some e =>
    rw [checked_fail hf] at h
    exact .inl ⟨e, rfl, by simpa using h.symm⟩
  | none =>
    rw [checked_pass hf] at h
    cases r with
    | ok u => exact .inr (.inl ⟨rfl, u, rfl, by simpa using h.symm⟩)
    | fail e => exact .inr (.inr (.inl ⟨rfl, e, rfl, by simpa using h.symm⟩))
    | wait => exact .inr (.inr (.inr ⟨rfl, rfl, by simpa using h.symm⟩))

/-- The completion step always answers a next state (rule R138). -/
theorem complete_is_next (s : State) (r : OpResult) : ∃ t, complete s r = .next t := by
  cases r <;> exact ⟨_, rfl⟩

/-- With a command in flight, its record is the one the meanings read. -/
theorem job_of_running {j : Job} (h : s.phase = .running j) : s.job = j := by
  simp [State.job, h]

end Sys2Proof.Machine
end

