-- ==== Sys2Proof/Laws/PerInstr.lean ====
section
/-! SUPPORT. The family `FixedBits`: the word of every command has the fixed bits that its row of spec/opcode_table.json gives
(its "mask" and "match", rule R61). -/

namespace Sys2Proof.Laws

/-- The "mask" and the "match" of a command's row. -/
def tableBits : Instr → Word × Word
  | .nop => (0xFFFFFFFF, 0x00000000)
  | .vxor _ _ _ => (0xFC0007FF, 0x04000000)
  | .vand _ _ _ => (0xFC0007FF, 0x08000000)
  | .mvmul _ _ _ => (0xFC0007FF, 0x0C000000)
  | .rank _ => (0xFFE0FFFF, 0x10000000)
  | .minv _ _ => (0xFC00FFFF, 0x14000000)
  | .graw _ _ => (0xFC1FF800, 0x20000000)
  | .gss _ _ => (0xFC1FF800, 0x24000000)
  | .gmat _ => (0xFC1FFFFF, 0x28000000)
  | .linst _ => (0xFC1FFFFF, 0x40000000)
  | .lkey _ _ => (0xFC00FFFF, 0x44000000)
  | .lenc _ _ _ => (0xFC0007FF, 0x48000000)
  | .ldec _ _ _ => (0xFC0007FF, 0x4C000000)
  | .lsub _ _ _ => (0xFC0007FF, 0x50000000)
  | .lisub _ _ _ => (0xFC0007FF, 0x54000000)
  | .lxrd _ _ _ => (0xFC00FFF8, 0x58000000)
  | .share _ _ _ => (0xFC00F800, 0x60000000)
  | .recon _ _ _ => (0xFC00F800, 0x64000000)
  | .tgen _ => (0xFC1FFFFF, 0x68000000)
  | .gateAnd _ _ _ _ => (0xFC000707, 0x80000000)
  | .gateOr _ _ _ _ => (0xFC000707, 0x80000001)
  | .gateXor _ _ _ => (0xFC0007FF, 0x80000002)
  | .gateNot _ _ => (0xFC00FFFF, 0x80000003)
  | .gateId _ _ => (0xFC00FFFF, 0x80000004)
  | .vclr => (0xFFFFFFFF, 0x84000000)

/-- The command's word has the fixed bits of its row. -/
def FixedBits.Statement (i : Instr) : Prop := encode i &&& (tableBits i).1 = (tableBits i).2

/-- A word's fields meet a mask's fields one by one. -/
theorem assembleWord_and (op op' : BitVec 6) (rd rd' a a' b b' : RegIdx) (imm imm' : Imm) :
    assembleWord op rd a b imm &&& assembleWord op' rd' a' b' imm' =
      assembleWord (op &&& op') (rd &&& rd') (a &&& a') (b &&& b') (imm &&& imm') := by
  have h : ∀ (op op' : BitVec 6) (rd rd' a a' b b' : BitVec 5) (imm imm' : BitVec 11),
      (op ++ rd ++ a ++ b ++ imm &&& op' ++ rd' ++ a' ++ b' ++ imm' : BitVec (6 + 5 + 5 + 5 + 11)) =
        (op &&& op') ++ (rd &&& rd') ++ (a &&& a') ++ (b &&& b') ++ (imm &&& imm') := by
    intros
    simp only [BitVec.and_append]
  exact h op op' rd rd' a a' b b' imm imm'

/-- GATE's immediate holds its kind and zeros around the triple index. -/
theorem gateImm_and (t : RegIdx) (kind : BitVec 3) : gateImm t kind &&& 0x707 = gateImm 0 kind := by
  have h : ∀ (t : BitVec 5) (k : BitVec 3),
      ((0#3 ++ t ++ k) &&& (7#3 ++ 0#5 ++ 7#3) : BitVec (3 + 5 + 3)) = 0#3 ++ 0#5 ++ k := by
    intro t k
    have hk : k &&& 7#3 = k := BitVec.and_allOnes
    simp only [BitVec.and_append, BitVec.and_zero, hk]
    rfl
  exact h t kind

/-- A register field that the mask leaves free. -/
theorem idx_and_zero (x : RegIdx) : x &&& 0 = 0 := BitVec.and_zero

/-- An immediate that the mask leaves free. -/
theorem imm_and_zero (x : Imm) : x &&& 0 = 0 := BitVec.and_zero

theorem FixedBits.nop : Statement .nop := by
  show _ = _
  decide

theorem FixedBits.vxor (d : RegIdx) (a : RegIdx) (b : RegIdx) : Statement (.vxor d a b) := by
  have hm : (0xFC0007FF : Word) = assembleWord 0x3f 0 0 0 0x7ff := by decide
  show assembleWord _ _ _ _ _ &&& 0xFC0007FF = 0x04000000
  rw [hm, assembleWord_and, idx_and_zero d, idx_and_zero a, idx_and_zero b]
  decide

theorem FixedBits.vand (d : RegIdx) (a : RegIdx) (b : RegIdx) : Statement (.vand d a b) := by
  have hm : (0xFC0007FF : Word) = assembleWord 0x3f 0 0 0 0x7ff := by decide
  show assembleWord _ _ _ _ _ &&& 0xFC0007FF = 0x08000000
  rw [hm, assembleWord_and, idx_and_zero d, idx_and_zero a, idx_and_zero b]
  decide

theorem FixedBits.mvmul (d : RegIdx) (a : RegIdx) (b : RegIdx) : Statement (.mvmul d a b) := by
  have hm : (0xFC0007FF : Word) = assembleWord 0x3f 0 0 0 0x7ff := by decide
  show assembleWord _ _ _ _ _ &&& 0xFC0007FF = 0x0C000000
  rw [hm, assembleWord_and, idx_and_zero d, idx_and_zero a, idx_and_zero b]
  decide

theorem FixedBits.rank (a : RegIdx) : Statement (.rank a) := by
  have hm : (0xFFE0FFFF : Word) = assembleWord 0x3f 31 0 31 0x7ff := by decide
  show assembleWord _ _ _ _ _ &&& 0xFFE0FFFF = 0x10000000
  rw [hm, assembleWord_and, idx_and_zero a]
  decide

theorem FixedBits.minv (d : RegIdx) (a : RegIdx) : Statement (.minv d a) := by
  have hm : (0xFC00FFFF : Word) = assembleWord 0x3f 0 0 31 0x7ff := by decide
  show assembleWord _ _ _ _ _ &&& 0xFC00FFFF = 0x14000000
  rw [hm, assembleWord_and, idx_and_zero d, idx_and_zero a]
  decide

theorem FixedBits.graw (d : RegIdx) (len : Imm) : Statement (.graw d len) := by
  have hm : (0xFC1FF800 : Word) = assembleWord 0x3f 0 31 31 0 := by decide
  show assembleWord _ _ _ _ _ &&& 0xFC1FF800 = 0x20000000
  rw [hm, assembleWord_and, idx_and_zero d, imm_and_zero len]
  decide

theorem FixedBits.gss (d : RegIdx) (len : Imm) : Statement (.gss d len) := by
  have hm : (0xFC1FF800 : Word) = assembleWord 0x3f 0 31 31 0 := by decide
  show assembleWord _ _ _ _ _ &&& 0xFC1FF800 = 0x24000000
  rw [hm, assembleWord_and, idx_and_zero d, imm_and_zero len]
  decide

theorem FixedBits.gmat (d : RegIdx) : Statement (.gmat d) := by
  have hm : (0xFC1FFFFF : Word) = assembleWord 0x3f 0 31 31 0x7ff := by decide
  show assembleWord _ _ _ _ _ &&& 0xFC1FFFFF = 0x28000000
  rw [hm, assembleWord_and, idx_and_zero d]
  decide

theorem FixedBits.linst (c : RegIdx) : Statement (.linst c) := by
  have hm : (0xFC1FFFFF : Word) = assembleWord 0x3f 0 31 31 0x7ff := by decide
  show assembleWord _ _ _ _ _ &&& 0xFC1FFFFF = 0x40000000
  rw [hm, assembleWord_and, idx_and_zero c]
  decide

theorem FixedBits.lkey (c : RegIdx) (k : RegIdx) : Statement (.lkey c k) := by
  have hm : (0xFC00FFFF : Word) = assembleWord 0x3f 0 0 31 0x7ff := by decide
  show assembleWord _ _ _ _ _ &&& 0xFC00FFFF = 0x44000000
  rw [hm, assembleWord_and, idx_and_zero c, idx_and_zero k]
  decide

theorem FixedBits.lenc (d : RegIdx) (a : RegIdx) (c : RegIdx) : Statement (.lenc d a c) := by
  have hm : (0xFC0007FF : Word) = assembleWord 0x3f 0 0 0 0x7ff := by decide
  show assembleWord _ _ _ _ _ &&& 0xFC0007FF = 0x48000000
  rw [hm, assembleWord_and, idx_and_zero d, idx_and_zero a, idx_and_zero c]
  decide

theorem FixedBits.ldec (d : RegIdx) (a : RegIdx) (c : RegIdx) : Statement (.ldec d a c) := by
  have hm : (0xFC0007FF : Word) = assembleWord 0x3f 0 0 0 0x7ff := by decide
  show assembleWord _ _ _ _ _ &&& 0xFC0007FF = 0x4C000000
  rw [hm, assembleWord_and, idx_and_zero d, idx_and_zero a, idx_and_zero c]
  decide

theorem FixedBits.lsub (d : RegIdx) (a : RegIdx) (c : RegIdx) : Statement (.lsub d a c) := by
  have hm : (0xFC0007FF : Word) = assembleWord 0x3f 0 0 0 0x7ff := by decide
  show assembleWord _ _ _ _ _ &&& 0xFC0007FF = 0x50000000
  rw [hm, assembleWord_and, idx_and_zero d, idx_and_zero a, idx_and_zero c]
  decide

theorem FixedBits.lisub (d : RegIdx) (a : RegIdx) (c : RegIdx) : Statement (.lisub d a c) := by
  have hm : (0xFC0007FF : Word) = assembleWord 0x3f 0 0 0 0x7ff := by decide
  show assembleWord _ _ _ _ _ &&& 0xFC0007FF = 0x54000000
  rw [hm, assembleWord_and, idx_and_zero d, idx_and_zero a, idx_and_zero c]
  decide

theorem FixedBits.lxrd (d : RegIdx) (c : RegIdx) (sel : LxrdSel) : Statement (.lxrd d c sel) := by
  have hm : (0xFC00FFF8 : Word) = assembleWord 0x3f 0 0 31 0x7f8 := by decide
  cases sel <;>
  · show assembleWord _ _ _ _ _ &&& 0xFC00FFF8 = 0x58000000
    rw [hm, assembleWord_and, idx_and_zero d, idx_and_zero c]
    decide

theorem FixedBits.share (d : RegIdx) (a : RegIdx) (k : Imm) : Statement (.share d a k) := by
  have hm : (0xFC00F800 : Word) = assembleWord 0x3f 0 0 31 0 := by decide
  show assembleWord _ _ _ _ _ &&& 0xFC00F800 = 0x60000000
  rw [hm, assembleWord_and, idx_and_zero d, idx_and_zero a, imm_and_zero k]
  decide

theorem FixedBits.recon (d : RegIdx) (a : RegIdx) (k : Imm) : Statement (.recon d a k) := by
  have hm : (0xFC00F800 : Word) = assembleWord 0x3f 0 0 31 0 := by decide
  show assembleWord _ _ _ _ _ &&& 0xFC00F800 = 0x64000000
  rw [hm, assembleWord_and, idx_and_zero d, idx_and_zero a, imm_and_zero k]
  decide

theorem FixedBits.tgen (d : RegIdx) : Statement (.tgen d) := by
  have hm : (0xFC1FFFFF : Word) = assembleWord 0x3f 0 31 31 0x7ff := by decide
  show assembleWord _ _ _ _ _ &&& 0xFC1FFFFF = 0x68000000
  rw [hm, assembleWord_and, idx_and_zero d]
  decide

theorem FixedBits.gateAnd (d : RegIdx) (x : RegIdx) (y : RegIdx) (t : RegIdx) : Statement (.gateAnd d x y t) := by
  have hm : (0xFC000707 : Word) = assembleWord 0x3f 0 0 0 0x707 := by decide
  show assembleWord _ _ _ _ _ &&& 0xFC000707 = 0x80000000
  rw [hm, assembleWord_and, gateImm_and, idx_and_zero d, idx_and_zero x, idx_and_zero y]
  decide

theorem FixedBits.gateOr (d : RegIdx) (x : RegIdx) (y : RegIdx) (t : RegIdx) : Statement (.gateOr d x y t) := by
  have hm : (0xFC000707 : Word) = assembleWord 0x3f 0 0 0 0x707 := by decide
  show assembleWord _ _ _ _ _ &&& 0xFC000707 = 0x80000001
  rw [hm, assembleWord_and, gateImm_and, idx_and_zero d, idx_and_zero x, idx_and_zero y]
  decide

theorem FixedBits.gateXor (d : RegIdx) (x : RegIdx) (y : RegIdx) : Statement (.gateXor d x y) := by
  have hm : (0xFC0007FF : Word) = assembleWord 0x3f 0 0 0 0x7ff := by decide
  show assembleWord _ _ _ _ _ &&& 0xFC0007FF = 0x80000002
  rw [hm, assembleWord_and, idx_and_zero d, idx_and_zero x, idx_and_zero y]
  decide

theorem FixedBits.gateNot (d : RegIdx) (x : RegIdx) : Statement (.gateNot d x) := by
  have hm : (0xFC00FFFF : Word) = assembleWord 0x3f 0 0 31 0x7ff := by decide
  show assembleWord _ _ _ _ _ &&& 0xFC00FFFF = 0x80000003
  rw [hm, assembleWord_and, idx_and_zero d, idx_and_zero x]
  decide

theorem FixedBits.gateId (d : RegIdx) (x : RegIdx) : Statement (.gateId d x) := by
  have hm : (0xFC00FFFF : Word) = assembleWord 0x3f 0 0 31 0x7ff := by decide
  show assembleWord _ _ _ _ _ &&& 0xFC00FFFF = 0x80000004
  rw [hm, assembleWord_and, idx_and_zero d, idx_and_zero x]
  decide

theorem FixedBits.vclr : Statement .vclr := by
  show _ = _
  decide

end Sys2Proof.Laws
end

