-- ==== Sys2Proof/Laws/Step.lean ====
section
/-! SUPPORT. What a step, a turn of the engine, a host access and a delivery of true-random bits can do, each said once: later
proofs cite these and unfold neither step nor the accesses. -/

namespace Sys2Proof.Machine

variable {s t : State}

/-- Every step takes an event of the script or the engine's turn, on a state that differs in the script alone. -/
theorem step_cases (h : step s = .next t) :
    ∃ env : List EnvEvent,
      (∃ r, t = ({ s with env := env } : State).readReg r) ∨
      (∃ r x, t = ({ s with env := env } : State).writeHost r x) ∨
      t = ({ s with env := env } : State).hardReset ∨
      (∃ b, t = ({ s with env := env } : State).trngValid b) ∨
      ({ s with env := env } : State).turnStep = .next t ∨
      ({ s with env := env } : State).answerTrng.turnStep = .next t := by
  have hread : ∀ {u : State} {addr size : Nat}, u.memRead addr size = .next t → ∃ r, t = u.readReg r := by
    intro u addr size hu
    simp only [State.memRead] at hu
    split at hu
    · cases hu; exact ⟨_, rfl⟩
    · cases hu
  cases hs : s.env with
  | nil =>
    rw [step, hs] at h
    refine ⟨s.env, ?_⟩
    exact .inr (.inr (.inr (.inr (.inr h))))
  | cons e rest =>
    rw [step, hs] at h
    cases e with
    | read addr size => exact ⟨rest, .inl (hread h)⟩
    | write addr size x =>
      refine ⟨rest, .inr (.inl ?_)⟩
      simp only [State.envStep, State.memWrite] at h
      split at h
      · cases h; exact ⟨_, _, rfl⟩
      · cases h
    | poll =>
      simp only [State.envStep] at h
      split at h
      · exact ⟨.poll :: rest, .inr (.inr (.inr (.inr (.inr h))))⟩
      · exact ⟨rest, .inl (hread h)⟩
    | resetPin => cases h; exact ⟨rest, .inr (.inr (.inl rfl))⟩
    | trng b => cases h; exact ⟨rest, .inr (.inr (.inr (.inl ⟨b, rfl⟩)))⟩
    | turn => exact ⟨rest, .inr (.inr (.inr (.inr (.inl h))))⟩

/-- The engine's turn: an idle engine does nothing, the reset-clearing phase ends, a word that is no command fails, and a
command is executed. -/
theorem turnStep_cases (h : s.turnStep = .next t) :
    (s.phase = .idle ∧ t = s) ∨ (s.phase = .clearing ∧ t = s.endClearing) ∨
    ∃ j, s.phase = .running j ∧
      ((∃ e, decode j.word = .error e ∧ t = s.failCommand (decodeErrorCode e)) ∨
        ∃ i, decode j.word = .ok i ∧ exec i s = .next t) := by
  cases hp : s.phase with
  | idle => simp only [State.turnStep, hp] at h; cases h; exact .inl ⟨rfl, rfl⟩
  | clearing => simp only [State.turnStep, hp] at h; cases h; exact .inr (.inl ⟨rfl, rfl⟩)
  | running j =>
    simp only [State.turnStep, hp, State.runCommand] at h
    refine .inr (.inr ⟨j, rfl, ?_⟩)
    cases hd : decode j.word with
    | error e => simp only [hd] at h; cases h; exact .inl ⟨e, rfl, rfl⟩
    | ok i => simp only [hd] at h; exact .inr ⟨i, rfl, h⟩

/-- A delivery of bits changes the command in flight and the count of bits, and nothing at all when no command is in flight. -/
theorem deliver_cases (s : State) (bits : List Bool) :
    (∃ j, s.phase = .running j ∧ s.deliver bits =
      { s with phase := .running { j with trngBits := j.trngBits ++ bits }, trngUsed := s.trngUsed + bits.length }) ∨
    ((∀ j, s.phase ≠ .running j) ∧ s.deliver bits = s) := by
  cases hp : s.phase with
  | idle => exact .inr ⟨nofun, by simp [State.deliver, hp]⟩
  | clearing => exact .inr ⟨nofun, by simp [State.deliver, hp]⟩
  | running j => exact .inl ⟨j, rfl, by simp [State.deliver, hp]⟩

/-- A delivery of no bit changes nothing. -/
@[simp] theorem deliver_nil (s : State) : s.deliver [] = s := by
  rcases deliver_cases s [] with ⟨j, hj, h⟩ | ⟨-, h⟩
  · rw [h]
    cases s
    simp_all
  · exact h

/-- A scripted bit is delivered or not taken. -/
theorem trngValid_cases (s : State) (b : Bool) :
    (s.trngReq = true ∧ s.trngValid b = s.deliver [b]) ∨ (s.trngReq = false ∧ s.trngValid b = s) := by
  cases h : s.trngReq
  · exact .inr ⟨rfl, by simp [State.trngValid, h]⟩
  · exact .inl ⟨rfl, by simp [State.trngValid, h]⟩

/-- A read of a register changes the output latch and the count of unspecified reads alone. -/
theorem readReg_frame (s : State) (r : Option HostReg) :
    ∃ x k, s.readReg r = { s with rdata := x, freeReads := k } := by
  cases r with
  | none => exact ⟨_, _, rfl⟩
  | some r =>
    simp only [State.readReg]
    split
    · exact ⟨_, _, rfl⟩
    · exact ⟨_, _, rfl⟩
    · split
      · exact ⟨_, _, rfl⟩
      · exact ⟨_, _, rfl⟩

/-- A write of a register: what it can do, phase by phase. -/
theorem writeHost_cases (s : State) (r : Option HostReg) (x : Word) :
    s.writeHost r x = s ∨ s.writeHost r x = s.setDrop ∨ s.writeHost r x = s.writeCtrl x ∨
      s.writeHost r x = s.writeStatus x ∨ ∃ q, r = some q ∧ s.phase = .idle ∧ s.writeHost r x = s.writeReg q x := by
  cases r with
  | none => exact .inl rfl
  | some r =>
    cases hp : s.phase with
    | idle => exact .inr (.inr (.inr (.inr ⟨r, rfl, rfl, by simp [State.writeHost, hp]⟩)))
    | clearing => exact .inl (by simp [State.writeHost, hp])
    | running j =>
      simp only [State.writeHost, hp]
      split
      · exact .inr (.inr (.inl rfl))
      · exact .inr (.inr (.inr (.inl rfl)))
      · split
        · exact .inr (.inl rfl)
        · exact .inl rfl

/-- A window write of data changes one register of V, M or S, or nothing. -/
theorem writeWdata_cases (s : State) (x : Word) :
    s.writeWdata x = s ∨
    (∃ i, s.winSel = some (.v i) ∧ s.winIdx < wordsFor s.cfg.dmax ∧ s.writeWdata x = { s with
      v := s.v.set i { s.v.getD i .empty with
        bits := cutTo s.cfg.dmax (putWord (s.v.getD i .empty).bits s.winIdx x) } }) ∨
    (∃ i, s.winSel = some (.m i) ∧ s.winRow < s.cfg.dmax ∧ s.winCol < wordsFor s.cfg.dmax ∧ s.writeWdata x = { s with
      m := s.m.set i { s.m.getD i (.empty s.cfg) with
        bits := (s.m.getD i (.empty s.cfg)).bits.set s.winRow
          (cutTo s.cfg.dmax (putWord ((s.m.getD i (.empty s.cfg)).storeRow s.winRow) s.winCol x)) } }) ∨
    (∃ i, s.winSel = some (.s i) ∧ s.winIdx < wordsFor (s.cfg.pmax + 1) ∧ s.writeWdata x = { s with
      sh := s.sh.set i { s.sh.getD i .empty with
        b := partyBitsOf (cutTo (s.cfg.pmax + 1) (putWord (partyString (s.sh.getD i .empty).b) s.winIdx x)) } }) := by
  cases hw : s.winSel with
  | none => exact .inl (by simp [State.writeWdata, hw])
  | some w =>
    cases w with
    | v i =>
      by_cases hi : s.winIdx < wordsFor s.cfg.dmax
      · exact .inr (.inl ⟨i, rfl, hi, by simp [State.writeWdata, hw, hi]⟩)
      · exact .inl (by simp [State.writeWdata, hw, hi])
    | m i =>
      by_cases hi : s.winRow < s.cfg.dmax ∧ s.winCol < wordsFor s.cfg.dmax
      · exact .inr (.inr (.inl ⟨i, rfl, hi.1, hi.2, by simp [State.writeWdata, hw, hi]⟩))
      · exact .inl (by simp [State.writeWdata, hw, hi])
    | s i =>
      by_cases hi : s.winIdx < wordsFor (s.cfg.pmax + 1)
      · exact .inr (.inr (.inr ⟨i, rfl, hi, by simp [State.writeWdata, hw, hi]⟩))
      · exact .inl (by simp [State.writeWdata, hw, hi])
    | t i => exact .inl (by simp [State.writeWdata, hw])
    | view p => exact .inl (by simp [State.writeWdata, hw])

/-- A register of a file exists. -/
def WinReg.inFile (p : Params) : WinReg → Prop
  | .v i => i < p.nv
  | .m i => i < p.nm
  | .s i => i < p.ns
  | .t i => i < p.nt
  | .view q => 1 ≤ q ∧ q ≤ p.pmax

/-- The window selects a register that exists (rule R47). -/
theorem winSel_inFile {r : WinReg} (h : s.winSel = some r) : r.inFile s.cfg := by
  have aux : ∀ (f q : Nat), (match f with
      | 0 => if q < s.cfg.nv then some (.v q) else none
      | 1 => if q < s.cfg.nm then some (.m q) else none
      | 2 => if q < s.cfg.ns then some (.s q) else none
      | 3 => if q < s.cfg.nt then some (.t q) else none
      | 4 => if 1 ≤ q ∧ q ≤ s.cfg.pmax then some (.view q) else none
      | _ => none) = some r → r.inFile s.cfg := by
    intro f q h
    match f with
    | 0 | 1 | 2 | 3 | 4 =>
      obtain ⟨h1, h2⟩ := Option.ite_none_right_eq_some.mp h
      cases h2
      exact h1
    | _ + 5 => cases h
  exact aux _ _ h

/-- Word `w` of a view buffer is its bits from `32·w` on (rules R21, R48). -/
theorem getLsbD_viewWord (v : Vec) (w : Nat) {k : Nat} (hk : k < 32) : (viewWord v w).getLsbD k = bitAt v (32 * w + k) := by
  rw [viewWord, getLsbD_storeOf]
  simp [hk, bitAt, List.getD, List.getElem?_drop]

/-- A host read of an existing register with BUSY = 0 (rules R38, R41). -/
theorem memRead_idle {s : State} {off : Nat} {r : HostReg} (hr : hostReg s.cfg off = some r) (h4 : off % 4 = 0)
    (hoff : off < 0x1000) (hp : s.phase = .idle) : s.memRead off 4 = .next (s.putRdata (s.regValue r)) := by
  simp [State.memRead, accessForm, h4, hoff, hr, State.readReg, hp]

/-- A host read of a register whose reads are specified in every phase outside the reset-clearing phase (rule R50). -/
theorem memRead_specified {s : State} {off : Nat} {r : HostReg} (hr : hostReg s.cfg off = some r) (h4 : off % 4 = 0)
    (hoff : off < 0x1000) (hp : s.phase ≠ .clearing) (hu : r.unspecifiedWhileRunning = false) :
    s.memRead off 4 = .next (s.putRdata (s.regValue r)) := by
  cases h : s.phase <;> simp_all [State.memRead, accessForm, State.readReg]

/-- A host write of an existing register with BUSY = 0 (rule R38). -/
theorem memWrite_idle {s : State} {off : Nat} {r : HostReg} (x : Word) (hr : hostReg s.cfg off = some r) (h4 : off % 4 = 0)
    (hoff : off < 0x1000) (hp : s.phase = .idle) : s.memWrite off 4 x = .next (s.writeReg r x) := by
  simp [State.memWrite, accessForm, h4, hoff, hr, State.writeHost, hp]

end Sys2Proof.Machine
end

