-- ==== Sys2Proof/Machine/Assembler.lean ====
section
/-! DEFINITION. The assembler syntax (rule R68) and the host pseudo-instructions, each as the script of host accesses it expands
to (rule R69). -/

namespace Sys2Proof.Machine

/-- A register name: a letter and a decimal index (rule R68). -/
def regName (letter : String) (i : RegIdx) : String := letter ++ toString i.toNat

/-- The selector names of `lxrd` (rule R68). -/
def selName : LxrdSel → String
  | .lin => "lin"
  | .invlin => "invlin"
  | .keym => "keym"
  | .rc => "rc"
  | .rk => "rk"
  | .mkey => "mkey"

/-- The letter of LXRD's destination register (rule R68). -/
def selLetter : LxrdSel → String
  | .lin | .invlin | .keym => "m"
  | .rc | .rk | .mkey => "v"

/-- A command as text: mnemonic, a space, the operands separated by a comma, destination first (rule R68). -/
def asmLine (mnemonic : String) : List String → String
  | [] => mnemonic
  | ops => mnemonic ++ " " ++ String.intercalate ", " ops

/-- The assembler syntax of every command (rule R68). -/
def toAsm : Instr → String
  | .nop => asmLine "nop" []
  | .vxor d a b => asmLine "vxor" [regName "v" d, regName "v" a, regName "v" b]
  | .vand d a b => asmLine "vand" [regName "v" d, regName "v" a, regName "v" b]
  | .mvmul d a b => asmLine "mvmul" [regName "v" d, regName "m" a, regName "v" b]
  | .rank a => asmLine "rank" [regName "m" a]
  | .minv d a => asmLine "minv" [regName "m" d, regName "m" a]
  | .graw d len => asmLine "graw" [regName "v" d, toString len.toNat]
  | .gss d len => asmLine "gss" [regName "v" d, toString len.toNat]
  | .gmat d => asmLine "gmat" [regName "m" d]
  | .linst c => asmLine "linst" [regName "c" c]
  | .lkey c k => asmLine "lkey" [regName "c" c, regName "v" k]
  | .lenc d a c => asmLine "lenc" [regName "v" d, regName "v" a, regName "c" c]
  | .ldec d a c => asmLine "ldec" [regName "v" d, regName "v" a, regName "c" c]
  | .lsub d a c => asmLine "lsub" [regName "v" d, regName "v" a, regName "c" c]
  | .lisub d a c => asmLine "lisub" [regName "v" d, regName "v" a, regName "c" c]
  | .lxrd d c sel => asmLine "lxrd" [regName (selLetter sel) d, regName "c" c, selName sel]
  | .share d a k => asmLine "share" [regName "s" d, regName "v" a, toString k.toNat]
  | .recon d a k => asmLine "recon" [regName "v" d, regName "s" a, toString k.toNat]
  | .tgen d => asmLine "tgen" [regName "t" d]
  | .gateAnd d x y t => asmLine "gate.and" [regName "s" d, regName "s" x, regName "s" y, regName "t" t]
  | .gateOr d x y t => asmLine "gate.or" [regName "s" d, regName "s" x, regName "s" y, regName "t" t]
  | .gateXor d x y => asmLine "gate.xor" [regName "s" d, regName "s" x, regName "s" y]
  | .gateNot d x => asmLine "gate.not" [regName "s" d, regName "s" x]
  | .gateId d x => asmLine "gate.id" [regName "s" d, regName "s" x]
  | .vclr => asmLine "vclr" []

/-- `wr REG, X` at a byte offset of rule R27: one write. -/
def hostWr (off : Nat) (x : Word) : EnvEvent := .write off 4 x

/-- `rd REG`: one read. -/
def hostRd (off : Nat) : EnvEvent := .read off 4

/-- A command mnemonic: `wr CMD, word` then `wait`. The bits in `trng` are the TRNG's answers to it. -/
def hostCommand (i : Instr) (trng : List Bool) : List EnvEvent :=
  hostWr 0x024 (encode i) :: (trng.map .trng ++ [.poll])

/-- `setn N`. -/
def hostSetn (n : Nat) : List EnvEvent := [hostWr 0x030 (BitVec.ofNat 32 n)]

/-- `setarg A, B`: `wr ARG, (B << 16) | A`. -/
def hostSetarg (a b : Nat) : List EnvEvent := [hostWr 0x028 (BitVec.ofNat 32 (b * 2 ^ 16 + a))]

/-- `cxparam cC, BS, KS, NSB, R`. -/
def hostCxparam (c bs ks nsb r : Nat) : List EnvEvent :=
  [hostWr (0x100 + 16 * c) (BitVec.ofNat 32 (ks * 2 ^ 16 + bs)),
   hostWr (0x104 + 16 * c) (BitVec.ofNat 32 (r * 2 ^ 16 + nsb))]

/-- `wr WSEL, (FILE << 28) | (REG << 20) | IDX`. -/
def hostWsel (file reg idx : Nat) : EnvEvent :=
  hostWr 0x050 (BitVec.ofNat 32 (file * 2 ^ 28 + reg * 2 ^ 20 + idx))

/-- `ldv vI, L, X`. -/
def hostLdv (i len x : Nat) : List EnvEvent :=
  ((List.range ((len + 31) / 32)).flatMap fun w => [hostWsel 0 i w, hostWr 0x054 (BitVec.ofNat 32 (x / 2 ^ (32 * w)))]) ++
  [hostWsel 0 i 0, hostWr 0x058 (BitVec.ofNat 32 len)]

/-- The row writes of `ldm`, from row `r` on. -/
def hostLdmRows (i cols : Nat) : Nat → List Nat → List EnvEvent
  | _, [] => []
  | r, x :: rest =>
    ((List.range ((cols + 31) / 32)).flatMap fun w =>
      [hostWsel 1 i (r * 2 ^ 8 + w), hostWr 0x054 (BitVec.ofNat 32 (x / 2 ^ (32 * w)))]) ++ hostLdmRows i cols (r + 1) rest

/-- `ldm mI, R, C, X0, .., X(R-1)`. -/
def hostLdm (i rows cols : Nat) (xs : List Nat) : List EnvEvent :=
  hostLdmRows i cols 0 xs ++ [hostWsel 1 i 0, hostWr 0x058 (BitVec.ofNat 32 (cols * 2 ^ 16 + rows))]

/-- `lds sI, N, X` (for PMAX <= 31). -/
def hostLds (i n x : Nat) : List EnvEvent :=
  [hostWsel 2 i 0, hostWr 0x054 (BitVec.ofNat 32 x), hostWr 0x058 (BitVec.ofNat 32 n)]

/-- `rdw FILE, I, IDX`. -/
def hostRdw (file i idx : Nat) : List EnvEvent := [hostWsel file i idx, hostRd 0x054]

/-- `clrerr`: `wr STATUS, 0x80000006`. -/
def hostClrerr : List EnvEvent := [hostWr 0x018 0x80000006]

end Sys2Proof.Machine
end

