-- ==== Sys2Proof/Tests/Slice0.lean ====
section
/-! SUPPORT. Tests and witnesses. A test's expected value is one that the spec gives: its source stands in its comment, mostly
spec/95_test_vectors.md. A witness shows that the hypotheses of a statement in Certificates/Slice0/Obligations.lean can hold
together, clause by clause, at boundary values. -/

namespace Sys2Proof.Tests

open Sys2Proof.Machine

set_option Elab.async false

/-! ### Helpers -/

/-- The state an outcome answers. -/
def answer : Host.Outcome State Fault Refusal → State
  | .next t => t
  | .fault _ => State.reset
  | .refused _ => State.reset

/-- The outcome is a next state. -/
def isNext : Host.Outcome State Fault Refusal → Bool
  | .next _ => true
  | .fault _ => false
  | .refused _ => false

theorem next_of_isNext {o : Host.Outcome State Fault Refusal} (h : isNext o = true) : o = .next (answer o) := by
  cases o <;> simp_all [isNext, answer]

/-- One step from `s` with the command word `w` in flight. -/
def run (s : State) (w : Nat) : State := answer (step (s.withFetchWord 32 w))

/-- ERR's number after one step from `s` with the command word `w` in flight. -/
def errAfter (s : State) (w : Nat) : Nat := errorNumber (run s w).err

/-- A vector of `len` bits from its integer value (rule R7). -/
def vecOf (len x : Nat) : Vec := (List.range len).map x.testBit

/-- A matrix value of `c` columns from its rows' integer values. -/
def matOf (c : Nat) (rows : List Nat) : Mat := { rows := rows.length, cols := c, row := rows.map (vecOf c) }

/-- A matrix register of `c` columns from its rows' words. -/
def mreg (dmax c : Nat) (rows : List Nat) : MReg :=
  { rows := rows.length, cols := c, bits := rows.map (BitVec.ofNat 2047 ·) ++ List.replicate (dmax - rows.length) 0 }

/-- REF right after reset, with V0 and V1 loaded. -/
def withVecs (a b : VReg) : State := { State.reset with v := [a, b] ++ List.replicate 6 .empty }

/-- REF right after reset, with M0 loaded. -/
def withMat (c : Nat) (rows : List Nat) : State :=
  { State.reset with m := mreg 256 c rows :: List.replicate 3 (.empty .ref) }

/-- REF right after reset, with PARTIES = `n`, S0 and S1 loaded and the triple of rule R121's example in T0. -/
def withShares (n : BitVec 8) (s0 s1 : SReg) : State :=
  { State.reset with
    parties := n, sh := [s0, s1] ++ List.replicate 14 .empty
    tr := { valid := true, cnt := 3, a := 0b100, b := 0b111, c := 0b001 } :: List.replicate 3 .empty }

/-- Instance B of spec 95 section 2.5, keyed with "10" (its example). -/
def ctxB : Ctx :=
  { par := { bs := 4, ks := 2, m := 1, r := 1 }, inst := true, keyed := true
    lin := [matOf 4 [0b1101, 0b1000, 0b1011, 0b1100]], invlin := [matOf 4 [0b1001, 0b1111, 0b1010, 0b0010]]
    rc := [vecOf 4 0b0101], km := [matOf 2 [0b11, 0b01, 0b11, 0b10], matOf 2 [0b01, 0b00, 0b11, 0b11]]
    mkey := vecOf 2 0b10, rk := [vecOf 4 0b1101, vecOf 4 0b1100] }

/-- REF right after reset, with context 0 = instance B and V0 and V1 loaded. -/
def withCtx (x : Ctx) (a b : VReg) : State := { withVecs a b with cx := [x, .empty] }

/-! ### Decoding: spec 95 section 2.1, a word for every constructor, and section 2.8 -/

theorem test_decode_algebra :
    decode 0x00000000 = .ok .nop ∧ decode 0x04400800 = .ok (.vxor 2 0 1) ∧ decode 0x08600800 = .ok (.vand 3 0 1) ∧
    decode 0x0C611000 = .ok (.mvmul 3 1 2) ∧ decode 0x10010000 = .ok (.rank 1) ∧ decode 0x14430000 = .ok (.minv 2 3) := by
  decide

theorem test_decode_generator :
    decode 0x20000020 = .ok (.graw 0 32) ∧ decode 0x24200020 = .ok (.gss 1 32) ∧ decode 0x28000000 = .ok (.gmat 0) := by
  decide

theorem test_decode_lowmc :
    decode 0x40000000 = .ok (.linst 0) ∧ decode 0x44010000 = .ok (.lkey 0 1) ∧ decode 0x48400000 = .ok (.lenc 2 0 0) ∧
    decode 0x4C620000 = .ok (.ldec 3 2 0) ∧ decode 0x50200000 = .ok (.lsub 1 0 0) ∧
    decode 0x54410000 = .ok (.lisub 2 1 0) ∧ decode 0x58000001 = .ok (.lxrd 0 0 .invlin) ∧
    decode 0x58800004 = .ok (.lxrd 4 0 .rk) := by decide

theorem test_decode_sharing_and_gates :
    decode 0x60200001 = .ok (.share 1 0 1) ∧ decode 0x64220000 = .ok (.recon 1 2 0) ∧ decode 0x68000000 = .ok (.tgen 0) ∧
    decode 0x80400800 = .ok (.gateAnd 2 0 1 0) ∧ decode 0x80600809 = .ok (.gateOr 3 0 1 1) ∧
    decode 0x80600802 = .ok (.gateXor 3 0 1) ∧ decode 0x80820003 = .ok (.gateNot 4 2) ∧
    decode 0x80A40004 = .ok (.gateId 5 4) ∧ decode 0x84000000 = .ok .vclr := by decide

theorem test_decode_rejects :
    decode 0x18000000 = .error .undefinedOpcode ∧ decode 0x00000001 = .error .reservedField ∧
    decode 0x80000705 = .error .unsupportedGate ∧ decode 0x58000006 = .error .undefinedSelector ∧
    decode 0x8000080A = .error .reservedField := by decide

/-- Spec 95 section 2.1: the same words from the encoder. -/
theorem test_encode :
    encode (.gateOr 3 0 1 1) = 0x80600809 ∧ encode (.lxrd 4 0 .rk) = 0x58800004 ∧ encode (.minv 2 3) = 0x14430000 := by
  decide

/-! ### WellFormed: an index outside its file, for each file (rule R63) -/

theorem test_wellFormed_vector : (Instr.vxor 9 0 1).wellFormed .ref = false := by decide
theorem test_wellFormed_matrix : (Instr.minv 0 4).wellFormed .ref = false := by decide
theorem test_wellFormed_share : (Instr.gateNot 16 0).wellFormed .ref = false := by decide
theorem test_wellFormed_triple : (Instr.gateAnd 0 0 1 4).wellFormed .ref = false := by decide
theorem test_wellFormed_context : (Instr.linst 2).wellFormed .ref = false := by decide
theorem test_wellFormed_lxrd_file :
    (Instr.lxrd 4 0 .lin).wellFormed .ref = false ∧ (Instr.lxrd 4 0 .rc).wellFormed .ref = true := by decide

/-! ### One step: spec 95 sections 1 and 2 -/

/-- 2.2: NOP leaves all but DONE unchanged. -/
theorem test_nop : run State.reset 0x00000000 = { State.reset.endClearing with done := true } := by decide +kernel

/-- 2.3: "1100" ⊕ "1010" = "0110". -/
theorem test_vxor : (run (withVecs ⟨4, 0b1100⟩ ⟨4, 0b1010⟩) 0x04400800).v[2]? = some ⟨4, 0b0110⟩ := by decide +kernel

/-- 2.3: lengths 4 and 3 do not match. -/
theorem test_vxor_lengths : errAfter (withVecs ⟨4, 0b1100⟩ ⟨3, 0b101⟩) 0x04400800 = 1 := by decide +kernel

/-- 2.3: "1100" ∧ "1010" = "1000". -/
theorem test_vand : (run (withVecs ⟨4, 0b1100⟩ ⟨4, 0b1010⟩) 0x08600800).v[3]? = some ⟨4, 0b1000⟩ := by decide +kernel

/-- 2.3: F3 times "101" is "111" (`mvmul v1, m0, v0`). -/
theorem test_mvmul :
    (run { withMat 3 [3, 6, 4] with v := ⟨3, 0b101⟩ :: List.replicate 7 .empty } 0x0C200000).v[1]? = some ⟨3, 0b111⟩ := by
  decide +kernel

/-- 1.3: the rank of D3 is 2. -/
theorem test_rank : (run (withMat 3 [3, 6, 5]) 0x10000000).result = 2 := by decide +kernel

/-- 2.3: storage rows "100", "100" declared 2×2 have rank 0. -/
theorem test_rank_declared_columns : (run (withMat 2 [4, 4]) 0x10000000).result = 0 := by decide +kernel

/-- 2.3: the inverse of F3. -/
theorem test_minv : (run (withMat 3 [3, 6, 4]) 0x14200000).m[1]? = some (mreg 256 3 [7, 6, 4]) := by decide +kernel

/-- 2.3: "11", "11" is singular. -/
theorem test_minv_singular : errAfter (withMat 2 [3, 3]) 0x14200000 = 2 := by decide +kernel

/-- 2.4: GRAW of 32 bits after reset. -/
theorem test_graw : ((run State.reset 0x20000020).v[0]?.map (·.bits), (run State.reset 0x20000020).lfsr) =
    (some 0x958C8B14, { s := 0x958C8B14BF4E9A0DE006, init := true }) := by decide +kernel

/-- 2.4: GRAW of 257 bits is too long for REF, and draws nothing. -/
theorem test_graw_too_long : ((run State.reset 0x20000101).err, (run State.reset 0x20000101).lfsr) =
    (some .invalidParameters, .reset) := by decide +kernel

/-- 2.4: GSS of 32 bits after reset. -/
theorem test_gss : ((run State.reset 0x24200020).v[1]?.map (·.bits), (run State.reset 0x24200020).lfsr) =
    (some 0x6C48838C, { s := 0x4F4320D927972944B562, init := true }) := by decide +kernel

/-- 2.4: GMAT of 3 rows and 3 columns after reset. -/
theorem test_gmat :
    (run { State.reset with argA := 3, argB := 3 } 0x28000000).m[0]? = some (mreg 256 3 [0b100, 0b001, 0b110]) := by
  decide +kernel

/-- 2.5: instance C after reset: RETRIES 0, KM[0], and the generator. -/
theorem test_linst :
    let t := run { State.reset with cx := [{ Ctx.empty with par := { bs := 3, ks := 3, m := 1, r := 0 } }, .empty] } 0x40000000
    (t.retries, t.cx.map (·.km), t.lfsr.s) = (0, [[matOf 3 [0b100, 0b001, 0b110]], []], 0xF0958C8B14BF4E9A0DE0) := by
  decide +kernel

/-- 2.5: 3m = 6 is beyond bs = 5. -/
theorem test_linst_invalid :
    errAfter { State.reset with cx := [{ Ctx.empty with par := { bs := 5, ks := 5, m := 2, r := 1 } }, .empty] } 0x40000000 = 1 := by
  decide +kernel

/-- 2.5: the key "10" gives RK[0] = "1101" and RK[1] = "1100". -/
theorem test_lkey :
    (run (withCtx { ctxB with keyed := false, mkey := [], rk := [] } ⟨2, 0b10⟩ .empty) 0x44000000).cx = [ctxB, .empty] := by
  decide +kernel

/-- 2.5: a key of length 3 does not fit ks = 2. -/
theorem test_lkey_length : errAfter (withCtx ctxB ⟨3, 0b101⟩ .empty) 0x44000000 = 1 := by decide +kernel

/-- 3.2: LENC("1001") = "0001". -/
theorem test_lenc : (run (withCtx ctxB .empty ⟨4, 0b1001⟩) 0x48410000).v[2]? = some ⟨4, 0b0001⟩ := by decide +kernel

/-- 2.5: after reset no context is keyed. -/
theorem test_lenc_not_ready : errAfter State.reset 0x48010000 = 6 := by decide +kernel

/-- 3.2: LDEC("0001") = "1001" (`ldec v3, v1, c0`). -/
theorem test_ldec : (run (withCtx ctxB .empty ⟨4, 0b0001⟩) 0x4C610000).v[3]? = some ⟨4, 0b1001⟩ := by decide +kernel

/-- 2.5: Substitute("1011") = "1110" with bs = 4 and m = 1 (`lsub v1, v0, c0`). -/
theorem test_lsub : (run (withCtx ctxB ⟨4, 0b1011⟩ .empty) 0x50200000).v[1]? = some ⟨4, 0b1110⟩ := by decide +kernel

/-- 2.5: invSubstitute("1110") = "1011" (`lisub v2, v1, c0`). -/
theorem test_lisub : (run (withCtx ctxB .empty ⟨4, 0b1110⟩) 0x54410000).v[2]? = some ⟨4, 0b1011⟩ := by decide +kernel

/-- 2.5: with ARG_A = 1, `lxrd v6, c0, rk` gives "1100". -/
theorem test_lxrd : (run { withCtx ctxB .empty .empty with argA := 1 } 0x58C00004).v[6]? = some ⟨4, 0b1100⟩ := by
  decide +kernel

/-- 2.5: with ARG_A = 1 there is no LIN, since r = 1. -/
theorem test_lxrd_round : errAfter { withCtx ctxB .empty .empty with argA := 1 } 0x58000000 = 1 := by decide +kernel

/-- 2.6: n = 3, secret 1, TRNG bits 0 and 1: [_, 0, 0, 1]. -/
theorem test_share :
    let s := { withVecs ⟨1, 1⟩ .empty with parties := 3 }
    (answer (step ((s.withFetchWord 32 0x60000000).deliver [false, true]))).sh[0]? = some ⟨3, 0b100⟩ := by decide +kernel

/-- 2.6: with n = 9 > PMAX, SHARE fails. -/
theorem test_share_parties : errAfter { withVecs ⟨1, 1⟩ .empty with parties := 9 } 0x60000000 = 1 := by decide +kernel

/-- 1.1: [_, 0, 0, 1] reconstructs to 1 (`recon v0, s0, 0`). -/
theorem test_recon :
    (run { withShares 3 ⟨3, 0b100⟩ .empty with v := ⟨1, 0⟩ :: List.replicate 7 .empty } 0x64000000).v[0]? = some ⟨1, 1⟩ := by
  decide +kernel

/-- 2.6: the bit index check comes before the count check. -/
theorem test_recon_order : errAfter { State.reset with parties := 2 } 0x64000000 = 1 := by decide +kernel

/-- 2.6: n = 3 with the TRNG bits 1, 1, 0, 1, 1, 1, 0, 0. -/
theorem test_tgen :
    let s := { State.reset with parties := 3 }
    let bits := [true, true, false, true, true, true, false, false]
    (answer (step ((s.withFetchWord 32 0x68000000).deliver bits))).tr[0]? =
      some { valid := true, cnt := 3, a := 0b100, b := 0b111, c := 0b001 } := by decide +kernel

/-- 2.7, x = 1 and y = 0: `gate.and s2, s0, s1, t0` gives [_, 1, 1, 0] and party 1's record. -/
theorem test_gate_and :
    let t := run (withShares 3 ⟨3, 0b010⟩ ⟨3, 0b101⟩) 0x80400800
    (t.sh[2]?, t.vptr, t.views.head?.map natOfBits, t.tr.head?.map (·.valid)) =
      (some ⟨3, 0b011⟩, 11, some 0b01011010110, some false) := by decide +kernel

/-- 2.7: a triple register that TGEN never filled. -/
theorem test_gate_and_triple : errAfter (withShares 3 ⟨3, 0b010⟩ ⟨3, 0b101⟩) 0x80400808 = 4 := by decide +kernel

/-- 2.7, x = 1 and y = 0: `gate.or s3, s0, s1, t0` gives [_, 0, 0, 1]. -/
theorem test_gate_or : (run (withShares 3 ⟨3, 0b010⟩ ⟨3, 0b101⟩) 0x80600801).sh[3]? = some ⟨3, 0b100⟩ := by decide +kernel

/-- 2.7, x = 1 and y = 0: `gate.xor s3, s0, s1` gives [_, 1, 1, 1]. -/
theorem test_gate_xor : (run (withShares 3 ⟨3, 0b010⟩ ⟨3, 0b101⟩) 0x80600802).sh[3]? = some ⟨3, 0b111⟩ := by decide +kernel

/-- 2.7, x = 1: `gate.not s3, s0` gives [_, 1, 1, 0], and [_, 1, 0, 1] with NOTALL = 1. -/
theorem test_gate_not :
    ((run (withShares 3 ⟨3, 0b010⟩ .empty) 0x80600003).sh[3]?,
     (run { withShares 3 ⟨3, 0b010⟩ .empty with notAll := true } 0x80600003).sh[3]?) =
      (some ⟨3, 0b011⟩, some ⟨3, 0b101⟩) := by decide +kernel

/-- 2.7: cnt = 3 with n = 2 (`gate.not s1, s0`). -/
theorem test_gate_not_count : errAfter (withShares 2 ⟨3, 0b010⟩ .empty) 0x80200003 = 4 := by decide +kernel

/-- Rule R136's example: `gate.id s5, s0`. -/
theorem test_gate_id : (run (withShares 3 ⟨3, 0b010⟩ .empty) 0x80A00004).sh[5]? = some ⟨3, 0b010⟩ := by decide +kernel

/-- 2.7: `vclr` gives VPTR = 0 and view bits 0. -/
theorem test_vclr :
    let t := run { State.reset with views := List.replicate 8 [true, false], vptr := 2 } 0x84000000
    (t.vptr, t.views) = (0, List.replicate 8 []) := by decide +kernel

/-- 2.8: the errors of words that are no command, or index outside a file. -/
theorem test_error_codes : [0x18000000, 0x00000001, 0x05200800, 0x80000705, 0x58000006, 0x58000003].map (errAfter State.reset) =
    [5, 5, 5, 3, 5, 6] := by decide +kernel

/-- 2.9: the configuration registers of REF. -/
theorem test_cfg : [.id, .cfg0, .cfg1, .cfg2, .cfg3].map State.reset.endClearing.regValue =
    [0x4E504301, 0x00080100, 0x04100408, 0x00200002, 0x00001000] := by decide +kernel

/-- 2.2: with ERR = 2 a CMD write is dropped. -/
theorem test_cmd_dropped :
    let s : State := { State.reset.endClearing with err := some .singularMatrix }
    answer (s.memWrite 0x024 4 0x10020000) = { s with drop := true } := by decide +kernel

/-- Rule R68: the assembler syntax. -/
theorem test_assembler : toAsm (.gateOr 3 0 1 1) = "gate.or s3, s0, s1, t1" ∧ toAsm (.lxrd 0 0 .lin) = "lxrd m0, c0, lin" := by
  decide +kernel

/-! ### Witnesses: a small configuration, its states and their invariants -/

/-- A small configuration, at several of its lower bounds. -/
def tiny : Params := { dmax := 8, pmax := 3, nv := 4, nm := 3, ns := 4, nt := 2, nctx := 2, rmax := 2, vcap := 64 }

/-- An idle state of `tiny` with vectors, matrices, shares, a triple, a keyed context and a running generator. -/
def lab : State :=
  { State.resetOf tiny with
    phase := .idle
    v := [⟨4, 0b1100⟩, ⟨4, 0b1010⟩, ⟨2, 0b10⟩, ⟨0, 0b11⟩]
    m := [mreg 8 3 [3, 6, 4], mreg 8 4 [1, 2], mreg 8 2 [3, 3]]
    sh := [⟨2, 0b01⟩, ⟨2, 0b11⟩, ⟨3, 0b010⟩, ⟨0, 0⟩]
    tr := [⟨true, 2, 0b10, 0b01, 0b11⟩, ⟨false, 0, 0, 0, 0⟩]
    cx := [ctxB, .empty]
    parties := 2
    lfsr := { s := 0xBF4E9A0DE0060FAFE38F, init := true } }

/-- `lab` with the operands ARG_A and ARG_B. -/
def labArg (a b : BitVec 11) : State := { lab with argA := a, argB := b }

/-- `lab` with PARTIES = `n`. -/
def labParties (n : BitVec 8) : State := { lab with parties := n }

/-- `lab` with views of `k` bits. -/
def labViews (k : Nat) : State := { lab with vptr := k, views := List.replicate 3 (List.replicate k false) }

/-- `lab` with context 0 instantiated and not keyed. -/
def labInst : State := { lab with cx := [{ ctxB with keyed := false, mkey := [], rk := [] }, .empty] }

/-- `lab` with the parameters of context 0 alone. -/
def labParams (bs ks : BitVec 11) (m r : BitVec 10) : State :=
  { lab with cx := [{ Ctx.empty with par := { bs := bs, ks := ks, m := m, r := r } }, .empty] }

/-- `s` with the command word `w` in flight and the bits `bits` from the TRNG. -/
def inFlight (s : State) (w : Word) (bits : List Bool) : State := (s.accept w).deliver bits

/-- The sizes of `State.Shape`, evaluated. -/
def shapeCheck (s : State) : Bool :=
  decide (s.cfg.valid) &&
  decide (s.v.length = s.cfg.nv ∧ ∀ r ∈ s.v, r.len ≤ s.cfg.dmax ∧ r.bits.toNat < 2 ^ s.cfg.dmax) &&
  (decide (s.m.length = s.cfg.nm) && s.m.all fun r => decide (r.rows ≤ s.cfg.dmax) && decide (r.cols ≤ s.cfg.dmax) &&
    decide (r.bits.length = s.cfg.dmax) && r.bits.all fun x => decide (x.toNat < 2 ^ s.cfg.dmax)) &&
  decide (s.sh.length = s.cfg.ns ∧ ∀ r ∈ s.sh, r.cnt ≤ s.cfg.pmax ∧ r.b.toNat < 2 ^ s.cfg.pmax) &&
  decide (s.tr.length = s.cfg.nt ∧ ∀ r ∈ s.tr, r.cnt ≤ s.cfg.pmax ∧ r.a.toNat < 2 ^ s.cfg.pmax ∧
    r.b.toNat < 2 ^ s.cfg.pmax ∧ r.c.toNat < 2 ^ s.cfg.pmax) &&
  decide (s.views.length = s.cfg.pmax ∧ s.vptr ≤ s.cfg.vcap ∧ ∀ v ∈ s.views, v.length = s.vptr) &&
  decide (s.cx.length = s.cfg.nctx ∧ ∀ x ∈ s.cx, x.Shape s.cfg) &&
  decide s.jobOk

theorem shape_of_check {s : State} (h : shapeCheck s = true) : s.Shape := by
  simp only [shapeCheck, Bool.and_eq_true, decide_eq_true_eq, List.all_eq_true] at h
  obtain ⟨⟨⟨⟨⟨⟨⟨h1, h2⟩, h3, h3'⟩, h4⟩, h5⟩, h6⟩, h7⟩, h8⟩ := h
  exact ⟨h1, h2, ⟨h3, fun r hr => by
    obtain ⟨⟨⟨a, b⟩, c⟩, d⟩ := h3' r hr
    exact ⟨a, b, c, d⟩⟩, h4, h5, h6, h7, h8⟩

theorem lab_shape : lab.Shape := shape_of_check (by decide +kernel)
theorem labInst_shape : labInst.Shape := shape_of_check (by decide +kernel)
theorem labViews_shape : (labViews 55).Shape := shape_of_check (by decide +kernel)
theorem lab_ranks : lab.Ranks := by decide +kernel
theorem lab_alive : lab.GeneratorAlive := by decide +kernel

/-! ### Witnesses of decoding, the step and errors -/

theorem witness_DecodedWordIsTheEncoding : decode 0x58800004 = .ok (.lxrd 4 0 .rk) := by decide

theorem witness_RejectedWords :
    (lab.accept 0x18000000).phase = .running (lab.sample 0x18000000) ∧ decode 0x18000000 = .error .undefinedOpcode ∧
    decode 0x80000705 = .error .unsupportedGate ∧ decode 0x58000006 = .error .undefinedSelector ∧
    decode 0x00000001 = .error .reservedField := by decide +kernel

theorem witness_StepRunsDecodedCommand :
    (lab.accept 0x60000000).phase = .running (lab.sample 0x60000000) ∧ decode 0x60000000 = .ok (.share 0 0 0) ∧
    (lab.accept 0x60000000).env = [] ∧
    trngNeed (.share 0 0 0) (inFlight lab 0x60000000 [true]) ≤ (inFlight lab 0x60000000 [true]).job.trngBits.length ∧
    ({ lab.accept 0x60000000 with env := [.poll, .trng true] } : State).env = .poll :: [.trng true] ∧
    ({ lab.accept 0x60000000 with env := [.turn] } : State).env = .turn :: [] := by decide +kernel

/-- The stop of this statement is reached. -/
theorem witness_OnlyInexpressibleAccessesStopAStep :
    step { lab with env := [.read 0x002 4] } = .refused .hostAccessForm ∧
    step { lab with env := [.write 0x1000 4 0] } = .refused .hostAccessForm ∧
    step { lab with env := [.read 0x000 2] } = .refused .hostAccessForm := ⟨rfl, rfl, rfl⟩

theorem witness_NoPartialResult :
    (lab.accept 0x14200000).err = none ∧ isNext ((lab.accept 0x14420000).turnStep) = true ∧
    (answer ((lab.accept 0x14420000).turnStep)).err = some .singularMatrix ∧
    (answer ((lab.accept 0x18000000).turnStep)).err = some .illegalCommand := by decide +kernel

theorem witness_IndexOutsideItsFileIsIllegal :
    (Instr.vxor 4 0 1).wellFormed lab.cfg = false ∧ (Instr.rank 3).wellFormed lab.cfg = false ∧
    (Instr.gateId 31 0).wellFormed lab.cfg = false ∧ (Instr.tgen 2).wellFormed lab.cfg = false ∧
    (Instr.lxrd 3 0 .lin).wellFormed lab.cfg = false := by decide +kernel

theorem witness_PartyCountOutOfRangeFails :
    (Instr.share 3 0 0).wellFormed lab.cfg = true ∧
    ¬ (2 ≤ (labParties 1).job.n.toNat ∧ (labParties 1).job.n.toNat ≤ lab.cfg.pmax) ∧
    ¬ (2 ≤ (labParties 4).job.n.toNat ∧ (labParties 4).job.n.toNat ≤ lab.cfg.pmax) := by decide +kernel

theorem witness_ParameterChecksFail :
    ((Instr.vxor 0 0 2).wellFormed lab.cfg = true ∧ (lab.vreg 0).len ≠ (lab.vreg 2).len) ∧
    ((Instr.mvmul 0 0 0).wellFormed lab.cfg = true ∧ (lab.vreg 0).len ≠ (lab.mreg 0).cols) ∧
    ((Instr.lkey 0 0).wellFormed lab.cfg = true ∧ (lab.ctx 0).inst = true ∧ (lab.vreg 0).len ≠ lab.ks 0) ∧
    ((Instr.lenc 0 2 0).wellFormed lab.cfg = true ∧ (lab.vreg 2).len ≠ lab.bs 0 ∧ (lab.ctx 0).keyed = true) ∧
    ((Instr.linst 1).wellFormed lab.cfg = true ∧ ¬ 1 ≤ (lab.ctx 1).par.bs.toNat) ∧
    ¬ (labParams 9 1 0 0).ctx 0 = .empty ∧ ¬ ((labParams 9 1 0 0).ctx 0).par.bs.toNat ≤ lab.cfg.dmax ∧
    ¬ 3 * ((labParams 8 8 3 2).ctx 0).par.m.toNat ≤ ((labParams 8 8 3 2).ctx 0).par.bs.toNat ∧
    ¬ ((labParams 8 8 2 3).ctx 0).par.r.toNat ≤ lab.cfg.rmax ∧
    ((Instr.graw 3 9).wellFormed lab.cfg = true ∧ lab.cfg.dmax < (9 : Imm).toNat) ∧
    ((Instr.gmat 2).wellFormed lab.cfg = true ∧ lab.cfg.dmax < (labArg 9 0).job.argA.toNat ∧
      lab.cfg.dmax < (labArg 8 9).job.argB.toNat) ∧
    ((Instr.lxrd 2 0 .lin).wellFormed lab.cfg = true ∧ (Instr.lxrd 3 0 .rc).wellFormed lab.cfg = true ∧
      (lab.ctx 0).inst = true ∧ (lab.ctx 0).keyed = true ∧ (labArg 1 0).rounds 0 ≤ (labArg 1 0).job.argA.toNat ∧
      (labArg 2 0).rounds 0 < (labArg 2 0).job.argA.toNat) := by decide +kernel

theorem witness_ContextTooEarlyIsNotReady :
    ((lab.ctx 1).inst = false ∧ (Instr.lkey 1 0).wellFormed lab.cfg = true ∧ (Instr.lsub 0 0 1).wellFormed lab.cfg = true) ∧
    ((labInst.ctx 0).keyed = false ∧ (labInst.ctx 0).inst = true ∧ (Instr.lenc 0 0 0).wellFormed lab.cfg = true ∧
      (Instr.lxrd 0 0 .mkey).wellFormed lab.cfg = true) := by decide +kernel

theorem witness_SharingAndGateChecksInOrder :
    lab.okParties = true ∧ (Instr.share 0 0 4).wellFormed lab.cfg = true ∧ (lab.vreg 0).len ≤ (4 : Imm).toNat ∧
    ((Instr.recon 0 2 3).wellFormed lab.cfg = true ∧ (3 : Imm).toNat < (lab.vreg 0).len ∧
      (lab.sreg 2).cnt ≠ lab.partyCount) ∧
    (Instr.gateAnd 0 0 1 1).wellFormed lab.cfg = true ∧ (lab.treg 1).valid = false ∧
    ((labViews 56).okParties = true ∧ ((labViews 56).sreg 0).cnt = 2 ∧ ((labViews 56).treg 0).valid = true ∧
      ((labViews 56).treg 0).cnt = (labViews 56).partyCount ∧
      (labViews 56).cfg.vcap < (labViews 56).vptr + 5 + 2 * (labViews 56).partyCount) := by decide +kernel

/-! ### Witnesses of the commands' results -/

theorem witness_ElementwiseResult :
    lab.Shape ∧ (Instr.vxor 3 0 1).wellFormed lab.cfg = true ∧ (lab.vreg 0).len = (lab.vreg 1).len :=
  ⟨lab_shape, by decide +kernel, by decide +kernel⟩

theorem witness_MvmulResult :
    lab.Shape ∧ (Instr.mvmul 0 1 0).wellFormed lab.cfg = true ∧ (lab.vreg 0).len = (lab.mreg 1).cols :=
  ⟨lab_shape, by decide +kernel, by decide +kernel⟩

theorem witness_RankIsDimensionOfRowSpan :
    (lab.mat 1).Shape 2 4 ∧ (lab.mreg 1).rows = (lab.mreg 1).rows ∧
    Mat.empty.Shape 0 0 := by decide +kernel

theorem witness_RankResult : lab.Shape ∧ (Instr.rank 2).wellFormed lab.cfg = true := ⟨lab_shape, by decide +kernel⟩

theorem witness_InverseIsTheTwoSidedInverse :
    (lab.mat 0).Shape 3 3 ∧ matRank (lab.mat 0) = 3 ∧ matMul (matInv (lab.mat 0)) (lab.mat 0) = matIdentity 3 ∧
    matMul (lab.mat 0) (matInv (lab.mat 0)) = matIdentity 3 ∧ Mat.empty.Shape 0 0 ∧ matRank .empty = 0 := by decide +kernel

theorem witness_MinvResult :
    lab.Shape ∧ (Instr.minv 0 0).wellFormed lab.cfg = true ∧ (lab.mreg 0).rows = (lab.mreg 0).cols ∧
    (lab.mreg 0).rows ≤ matRank (lab.mat 0) ∧ (lab.mreg 1).rows ≠ (lab.mreg 1).cols ∧
    matRank (lab.mat 2) < (lab.mreg 2).rows := ⟨lab_shape, by decide +kernel⟩

theorem witness_GrawResult :
    lab.Shape ∧ (Instr.graw 3 8).wellFormed lab.cfg = true ∧ (8 : Imm).toNat ≤ lab.cfg.dmax ∧ (0 : Imm).toNat = 0 :=
  ⟨lab_shape, by decide +kernel⟩

/-- Choices that are 1 at once and at the second attempt. -/
theorem witness_GssResult :
    (lab.Shape ∧ lab.GeneratorAlive ∧ (Instr.gss 3 8).wellFormed lab.cfg = true ∧ (8 : Imm).toNat ≤ lab.cfg.dmax) ∧
    lfsrFeedback (lfsrSteps (2 * 0) 1) = true ∧
    ((∀ j, j < 1 → lfsrFeedback (lfsrSteps (2 * j) 4) = false) ∧ lfsrFeedback (lfsrSteps (2 * 1) 4) = true) :=
  ⟨⟨lab_shape, lab_alive, by decide +kernel⟩, by decide +kernel⟩

theorem witness_GmatResult :
    (labArg 8 8).Shape ∧ (labArg 8 8).GeneratorAlive ∧ (Instr.gmat 2).wellFormed lab.cfg = true ∧
    (labArg 8 8).job.argA.toNat ≤ lab.cfg.dmax ∧ (labArg 8 8).job.argB.toNat ≤ lab.cfg.dmax :=
  ⟨shape_of_check (by decide +kernel), by decide +kernel, by decide +kernel, by decide +kernel, by decide +kernel⟩

theorem witness_OnlyDrawingCommandsMoveTheGenerator :
    exec (.vand 0 0 1) (lab.accept 0x08000800) = .next (answer (exec (.vand 0 0 1) (lab.accept 0x08000800))) :=
  next_of_isNext (by decide +kernel)

/-- A loop that keeps no candidate and draws no bit never ends. -/
theorem witness_RetryLoopHasNoCap (l : Lfsr) : drawUntil (fun _ => false) 0 0 cycleBound 0 l = none := by
  have h : ∀ fuel rej, drawUntil (fun _ => false) 0 0 fuel rej l = none := by
    intro fuel
    induction fuel with
    | zero => intro rej; rfl
    | succ k ih => intro rej; simpa [drawUntil, drawMatrix, drawVectors] using ih (sat32Succ rej)
  exact h _ _

theorem witness_LinstResult :
    (labParams 2 1 0 1).Shape ∧ (Instr.linst 0).wellFormed lab.cfg = true ∧
    validParams lab.cfg ((labParams 2 1 0 1).ctx 0).par = true ∧
    ∃ x rej l, instantiate ((labParams 2 1 0 1).ctx 0).par (labParams 2 1 0 1).lfsr = some (x, rej, l) := by
  refine ⟨shape_of_check (by decide +kernel), by decide +kernel, by decide +kernel, ?_⟩
  have h : (instantiate ((labParams 2 1 0 1).ctx 0).par (labParams 2 1 0 1).lfsr).isSome = true := by decide +kernel
  obtain ⟨y, hy⟩ := Option.isSome_iff_exists.mp h
  exact ⟨y.1, y.2.1, y.2.2, hy⟩

theorem witness_LkeyResult :
    lab.Shape ∧ labInst.Shape ∧ (Instr.lkey 0 2).wellFormed lab.cfg = true ∧ (lab.ctx 0).inst = true ∧
    (lab.vreg 2).len = (lab.ctx 0).par.ks.toNat := ⟨lab_shape, labInst_shape, by decide +kernel⟩

theorem witness_CipherBlockResult :
    lab.Shape ∧ (Instr.lenc 0 0 0).wellFormed lab.cfg = true ∧ (lab.ctx 0).keyed = true ∧
    (lab.vreg 0).len = (lab.ctx 0).par.bs.toNat := ⟨lab_shape, by decide +kernel⟩

theorem witness_SubstitutionResult :
    labInst.Shape ∧ (Instr.lsub 3 1 0).wellFormed labInst.cfg = true ∧ (labInst.ctx 0).inst = true ∧
    (labInst.vreg 1).len = (labInst.ctx 0).par.bs.toNat := ⟨labInst_shape, by decide +kernel⟩

/-- Instance B's stored inverse undoes its linear layer on every block. -/
theorem lab_inverts : (lab.ctx 0).Inverts := by
  intro i hi v hv
  have h0 : i = 0 := by
    have : (lab.ctx 0).par.r.toNat = 1 := by decide +kernel
    omega
  have h4 : v.length = 4 := hv
  subst h0
  obtain ⟨a, b, c, d, rfl⟩ : ∃ a b c d, v = [a, b, c, d] := by
    match v, h4 with
    | [a, b, c, d], _ => exact ⟨a, b, c, d, rfl⟩
  revert a b c d
  decide +kernel

theorem witness_CipherRoundTrip :
    (lab.accept 0).Shape ∧ (Instr.lenc 1 0 0).wellFormed lab.cfg = true ∧ (Instr.ldec 3 1 0).wellFormed lab.cfg = true ∧
    (lab.ctx 0).keyed = true ∧ (lab.ctx 0).Inverts ∧ (lab.vreg 0).len = (lab.ctx 0).par.bs.toNat ∧
    (lab.sample 0).cxp = lab.cx.map (·.par) ∧ isNext (exec (.lenc 1 0 0) (lab.accept 0)) = true ∧
    isNext (exec (.ldec 3 1 0) { answer (exec (.lenc 1 0 0) (lab.accept 0)) with phase := .running (lab.sample 0) }) = true :=
  ⟨shape_of_check (by decide +kernel), by decide +kernel, by decide +kernel, by decide +kernel, lab_inverts,
    by decide +kernel⟩

theorem witness_LxrdResult :
    lab.Shape ∧ (Instr.lxrd 2 0 .lin).wellFormed lab.cfg = true ∧ (Instr.lxrd 3 0 .rc).wellFormed lab.cfg = true ∧
    (lab.ctx 0).inst = true ∧ (lab.ctx 0).keyed = true ∧ lab.job.argA.toNat < (lab.ctx 0).par.r.toNat ∧
    (labArg 1 0).Shape ∧ (labArg 1 0).job.argA.toNat ≤ ((labArg 1 0).ctx 0).par.r.toNat :=
  ⟨lab_shape, by decide +kernel, by decide +kernel, by decide +kernel, by decide +kernel, by decide +kernel,
    shape_of_check (by decide +kernel), by decide +kernel⟩

theorem witness_ShareResult :
    (inFlight lab 0x60000003 [true]).Shape ∧ (Instr.share 0 0 3).wellFormed lab.cfg = true ∧
    (inFlight lab 0x60000003 [true]).okParties = true ∧ (3 : Imm).toNat < (lab.vreg 0).len ∧
    (inFlight lab 0x60000003 [true]).partyCount - 1 ≤ (inFlight lab 0x60000003 [true]).job.trngBits.length :=
  ⟨shape_of_check (by decide +kernel), by decide +kernel⟩

theorem witness_SharingWaitsForTheTrng :
    ((Instr.share 0 0 3).wellFormed lab.cfg = true ∧ (lab.accept 0x60000003).okParties = true ∧
      (lab.accept 0x60000003).job.trngBits.length < (lab.accept 0x60000003).partyCount - 1) ∧
    ((Instr.tgen 1).wellFormed lab.cfg = true ∧ (inFlight lab 0x68200000 [true, true, true, true]).job.trngBits.length <
      2 + 3 * ((inFlight lab 0x68200000 [true, true, true, true]).partyCount - 1)) ∧
    (decode 0x68200000 = .ok (.tgen 1) ∧ (lab.accept 0x68200000).phase = .running (lab.sample 0x68200000) ∧
      (lab.sample 0x68200000).trngBits.length < trngNeed (.tgen 1) (lab.accept 0x68200000)) ∧
    (decode 0x00000000 = .ok .nop ∧ trngNeed .nop lab ≤ (lab.sample 0).trngBits.length) := by decide +kernel

theorem witness_ReconResult :
    lab.Shape ∧ (Instr.recon 0 1 3).wellFormed lab.cfg = true ∧ lab.okParties = true ∧
    (3 : Imm).toNat < (lab.vreg 0).len ∧ (lab.sreg 1).cnt = lab.partyCount := ⟨lab_shape, by decide +kernel⟩

theorem witness_ShareThenReconGivesTheSecret :
    (inFlight lab 0x60600003 [true]).Shape ∧ (Instr.share 3 0 3).wellFormed lab.cfg = true ∧
    (Instr.recon 1 3 0).wellFormed lab.cfg = true ∧ (inFlight lab 0x60600003 [true]).okParties = true ∧
    (3 : Imm).toNat < (lab.vreg 0).len ∧ (0 : Imm).toNat < (lab.vreg 1).len ∧
    (lab.sample 0).n = (inFlight lab 0x60600003 [true]).job.n ∧
    isNext (exec (.share 3 0 3) (inFlight lab 0x60600003 [true])) = true ∧
    isNext (exec (.recon 1 3 0) { answer (exec (.share 3 0 3) (inFlight lab 0x60600003 [true])) with
      phase := .running (lab.sample 0) }) = true := ⟨shape_of_check (by decide +kernel), by decide +kernel⟩

theorem witness_TgenResult :
    (inFlight lab 0x68000000 [true, true, false, true, false]).Shape ∧ (Instr.tgen 0).wellFormed lab.cfg = true ∧
    (inFlight lab 0x68000000 [true, true, false, true, false]).okParties = true ∧
    2 + 3 * ((inFlight lab 0x68000000 [true, true, false, true, false]).partyCount - 1) ≤
      (inFlight lab 0x68000000 [true, true, false, true, false]).job.trngBits.length :=
  ⟨shape_of_check (by decide +kernel), by decide +kernel⟩

/-- The last place where a record of 9 bits fits. -/
theorem witness_GateAndResult :
    (labViews 55).Shape ∧ (Instr.gateAnd 0 0 1 0).wellFormed (labViews 55).cfg = true ∧ (labViews 55).okParties = true ∧
    ((labViews 55).sreg 0).cnt = (labViews 55).partyCount ∧ ((labViews 55).sreg 1).cnt = (labViews 55).partyCount ∧
    ((labViews 55).treg 0).valid = true ∧ ((labViews 55).treg 0).cnt = (labViews 55).partyCount ∧
    (labViews 55).vptr + 5 + 2 * (labViews 55).partyCount ≤ (labViews 55).cfg.vcap :=
  ⟨labViews_shape, by decide +kernel⟩

theorem witness_GateOrResult :
    lab.Shape ∧ (Instr.gateOr 3 1 1 0).wellFormed lab.cfg = true ∧ lab.okParties = true ∧
    (lab.sreg 1).cnt = lab.partyCount ∧ (lab.treg 0).valid = true ∧ (lab.treg 0).cnt = lab.partyCount ∧
    lab.vptr + 5 + 2 * lab.partyCount ≤ lab.cfg.vcap := ⟨lab_shape, by decide +kernel⟩

theorem witness_LocalGateResult :
    lab.Shape ∧ (Instr.gateXor 3 0 1).wellFormed lab.cfg = true ∧ lab.okParties = true ∧
    (lab.sreg 0).cnt = lab.partyCount ∧ (lab.sreg 1).cnt = lab.partyCount := ⟨lab_shape, by decide +kernel⟩

/-- `lab` with a triple that is usable and correct in T0. -/
def labTriple : State := { lab with tr := [⟨true, 2, 0b10, 0b01, 0b01⟩, .empty] }

theorem witness_GateContract :
    (let a := [false, true]
     let b := [true, false]
     let c := [true, false]
     2 ≤ 2 ∧ a.length = 2 ∧ b.length = 2 ∧ c.length = 2 ∧ reconstruct c = (reconstruct a && reconstruct b) ∧
     3 % 2 = 1 ∧ 2 % 2 = 0) ∧
    labTriple.Shape ∧ (Instr.gateAnd 3 0 1 0).wellFormed labTriple.cfg = true ∧ labTriple.okParties = true ∧
    2 = labTriple.partyCount ∧ (labTriple.sreg 0).cnt = 2 ∧ (labTriple.sreg 1).cnt = 2 ∧
    (labTriple.treg 0).valid = true ∧ (labTriple.treg 0).cnt = 2 ∧ labTriple.vptr + 5 + 2 * 2 ≤ labTriple.cfg.vcap ∧
    reconstruct (labTriple.tripleC 2 0) = (reconstruct (labTriple.tripleA 2 0) && reconstruct (labTriple.tripleB 2 0)) ∧
    labTriple.job.notAll = false ∧ ({ labTriple with notAll := true } : State).job.notAll = true :=
  ⟨by decide, shape_of_check (by decide +kernel), by decide +kernel⟩

theorem witness_TripleIsSingleUse :
    lab.Shape ∧ (Instr.gateAnd 3 0 1 0).wellFormed lab.cfg = true ∧ isNext (exec (.gateAnd 3 0 1 0) lab) = true ∧
    isNext (exec (.gateOr 3 0 1 0) lab) = true ∧ (answer (exec (.gateAnd 3 0 1 0) lab)).err = none ∧
    (answer (exec (.gateAnd 3 0 1 0) lab)).cfg = lab.cfg ∧ (answer (exec (.gateAnd 3 0 1 0) lab)).okParties = true :=
  ⟨lab_shape, by decide +kernel⟩

/-! ### Witnesses of the host interface and the invariants -/

theorem witness_CommandAcceptance :
    lab.phase = .idle ∧ lab.err = none ∧ (lab.failCommand .notReady).phase = .idle ∧
    (lab.failCommand .notReady).err ≠ none ∧ (lab.accept 5).phase = .running (lab.sample 5) ∧
    lab.hardReset.phase = .clearing := by decide +kernel

theorem witness_ControlRegistersHoldWhatIsWritten :
    lab.phase = .idle ∧ (lab.accept 5).phase ≠ .clearing ∧ (0x7FFFFFFF : Word).getLsbD 31 = false := by decide +kernel

theorem witness_WritesWhileBusyAreDropped :
    (lab.accept 5).phase = .running (lab.sample 5) ∧
    (∀ addr ∈ [0x000, 0x01C, 0x024, 0x058, 0x05C, 0x100, 0x104, 0x108, 0x114, 0x120, 0xFFC],
      addr % 4 = 0 ∧ addr < 0x1000 ∧ addr ≠ 0x014 ∧ addr ≠ 0x018) := by decide +kernel

theorem witness_ClearingPhaseIgnoresTheHost :
    lab.hardReset.phase = .clearing ∧ ∀ addr ∈ [0x000, 0x010, 0x014, 0x018, 0xFFC], addr % 4 = 0 ∧ addr < 0x1000 := by
  decide +kernel

theorem witness_ReadsHaveNoSideEffect :
    isNext (lab.memRead 0x054 4) = true ∧ isNext ((lab.accept 5).memRead 0x01C 4) = true ∧
    isNext (lab.hardReset.memRead 0xFFC 4) = true ∧ lab.phase = .idle ∧
    (lab.programEnd ∧ isNext (step lab) = true) ∧
    (({ lab with env := [.trng true, .turn, .resetPin] } : State).programEnd ∧
      isNext (step { lab with env := [.trng true, .turn, .resetPin] }) = true) := by decide +kernel

theorem witness_HostCannotWriteProtectedState :
    isNext (lab.memWrite 0x058 4 0) = true ∧ isNext ((lab.accept 5).memWrite 0x014 4 0x80000000) = true := by
  decide +kernel

/-- WSEL = `w` selects no valid word of `lab` (rule R47). -/
def noWord (w : Word) : Bool :=
  let s : State := { lab with wsel := w }
  match s.winSel with
  | none => true
  | some (.v _) => decide (wordsFor tiny.dmax ≤ s.winIdx)
  | some (.m _) => decide (tiny.dmax ≤ s.winRow ∨ wordsFor tiny.dmax ≤ s.winCol)
  | some (.s _) => decide (wordsFor (tiny.pmax + 1) ≤ s.winIdx)
  | some (.t _) => decide (3 ≤ s.winRow ∨ wordsFor (tiny.pmax + 1) ≤ s.winCol)
  | some (.view _) => decide (wordsFor tiny.vcap ≤ s.winIdx)

theorem noWindowWord_of_noWord {w : Word} (h : noWord w = true) : ({ lab with wsel := w } : State).noWindowWord := by
  simp only [noWord] at h
  split at h
  · exact .inl ‹_›
  · exact .inr (.inl ⟨_, ‹_›, of_decide_eq_true h⟩)
  · exact .inr (.inr (.inl ⟨_, ‹_›, of_decide_eq_true h⟩))
  · exact .inr (.inr (.inr (.inl ⟨_, ‹_›, of_decide_eq_true h⟩)))
  · exact .inr (.inr (.inr (.inr (.inl ⟨_, ‹_›, of_decide_eq_true h⟩))))
  · exact .inr (.inr (.inr (.inr (.inr ⟨_, ‹_›, of_decide_eq_true h⟩))))

theorem witness_ResetSourcesAgree :
    (0x80000000 : Word).getLsbD 31 = true ∧ lab.phase ≠ .clearing ∧ (lab.accept 5).phase ≠ .clearing := by decide +kernel

theorem witness_ResetValuesRead :
    tiny.valid ∧ Params.ref.valid ∧
    ({ dmax := 3, pmax := 2, nv := 1, nm := 1, ns := 1, nt := 1, nctx := 1, rmax := 0, vcap := 32 } : Params).valid := by
  decide +kernel

/-- Every kind of selection, at the first and past the last word of its string. -/
theorem witness_HostReadsReturnStoredValues :
    (lab.Shape ∧ lab.phase = .idle ∧ (lab.accept 5).phase ≠ .clearing ∧ lab.cx[0]? = some ctxB ∧
      lab.cx[1]? = some .empty) ∧
    (∀ off ∈ [0x03C, 0x04C, 0x05C, 0x0FC, 0x10C, 0x120, 0xFFC], off % 4 = 0 ∧
      ¬ (0x100 ≤ off ∧ (off - 0x100) / 16 < lab.cfg.nctx ∧ off % 16 ≠ 12)) ∧
    (({ lab with wsel := 0x00300000 } : State).winSel = some (.v 3) ∧
      ({ lab with wsel := 0x10200700 } : State).winSel = some (.m 2) ∧
      ({ lab with wsel := 0x10200700 } : State).winRow < lab.cfg.dmax ∧
      ({ lab with wsel := 0x20300000 } : State).winSel = some (.s 3) ∧
      ({ lab with wsel := 0x30100200 } : State).winSel = some (.t 1) ∧
      ({ lab with wsel := 0x30100200 } : State).winRow = 2 ∧
      ({ lab with wsel := 0x40300001 } : State).winSel = some (.view 3) ∧
      ({ lab with wsel := 0x40300001 } : State).winIdx < wordsFor lab.cfg.vcap) ∧
    [0x00400000, 0x00300001, 0x10200800, 0x10200701, 0x20300001, 0x30100300, 0x30100201, 0x40000000, 0x40300002,
      0x50000000].all noWord = true := ⟨⟨lab_shape, by decide +kernel⟩, by decide +kernel⟩

theorem witness_StatusRegister : lab.phase ≠ .clearing ∧ (lab.accept 5).phase ≠ .clearing := by decide +kernel

theorem witness_CxpWriteInvalidates : lab.Shape ∧ lab.phase = .idle ∧ 1 < lab.cfg.nctx := ⟨lab_shape, by decide +kernel⟩

theorem witness_WindowWordTakesTheData :
    ({ lab with wsel := 0x00300000 } : State).Shape ∧ ({ lab with wsel := 0x00300000 } : State).winSel = some (.v 3) ∧
    ({ lab with wsel := 0x00300000 } : State).winIdx < wordsFor lab.cfg.dmax ∧
    ({ lab with wsel := 0x10200700 } : State).winSel = some (.m 2) ∧
    ({ lab with wsel := 0x10200700 } : State).winRow < lab.cfg.dmax ∧
    ({ lab with wsel := 0x10200700 } : State).winCol < wordsFor lab.cfg.dmax ∧
    ({ lab with wsel := 0x20300000 } : State).winSel = some (.s 3) ∧
    ({ lab with wsel := 0x20300000 } : State).winIdx < wordsFor (lab.cfg.pmax + 1) ∧
    ({ lab with wsel := 0x00300001 } : State).noWindowWord ∧
    ({ lab with wsel := 0x30100000 } : State).winSel = some (.t 1) ∧
    ({ lab with wsel := 0x40300000 } : State).winSel = some (.view 3) :=
  ⟨shape_of_check (by decide +kernel), by decide +kernel, by decide +kernel, by decide +kernel, by decide +kernel,
    by decide +kernel, by decide +kernel, by decide +kernel, noWindowWord_of_noWord (by decide +kernel), by decide +kernel⟩

theorem witness_WlenWriteSetsMetadata :
    lab.Shape ∧ lab.phase = .idle ∧ lab.winSel = some (.v 0) ∧
    ({ lab with wsel := 0x10200000 } : State).winSel = some (.m 2) ∧
    ({ lab with wsel := 0x20300000 } : State).winSel = some (.s 3) ∧
    ({ lab with wsel := 0x30100000 } : State).winSel = some (.t 1) ∧
    ({ lab with wsel := 0x40300000 } : State).winSel = some (.view 3) ∧
    ({ lab with wsel := 0x40400000 } : State).winSel = none := ⟨lab_shape, by decide +kernel⟩

theorem witness_StepKeepsShape :
    (inFlight lab 0x80600800 []).Shape ∧ isNext (step (inFlight lab 0x80600800 [])) = true :=
  ⟨shape_of_check (by decide +kernel), by decide +kernel⟩

theorem witness_StepKeepsRanks :
    (lab.accept 0x08000800).Shape ∧ (lab.accept 0x08000800).Ranks ∧ isNext (step (lab.accept 0x08000800)) = true :=
  ⟨shape_of_check (by decide +kernel), by decide +kernel, by decide +kernel⟩

theorem witness_StepKeepsGeneratorAlive :
    (lab.accept 0x20000008).GeneratorAlive ∧ isNext (step (lab.accept 0x20000008)) = true := by decide +kernel

theorem witness_StepKeepsParametersAndTrngCount :
    isNext (step (inFlight lab 0x60000003 [true])) = true := by decide +kernel

end Sys2Proof.Tests
end

section
/-! PROOFS. The frames of a command and of a host write, and the fields that no step lowers. -/

namespace Sys2Proof.Machine

variable {s t u : State}

/-! ### What a command can write (rule R73) -/

/-- From `s` to `u` a command's operation made its writes: register files, views, contexts, generator, RESULT and RETRIES, and
no control register, flag, port or parameter. -/
structure OperationFrame (s u : State) : Prop where
  eq : u = { s with v := u.v, m := u.m, sh := u.sh, tr := u.tr, views := u.views, vptr := u.vptr, lfsr := u.lfsr, cx := u.cx,
                    result := u.result, retries := u.retries }

/-- The writes of a command that comes to `r`, if it makes any, stay in the frame of an operation. -/
def OpResult.Framed (s : State) (r : OpResult) : Prop := ∀ u, r = .ok u → OperationFrame s u

theorem framed_ok (h : OperationFrame s u) : OpResult.Framed s (.ok u) := by
  intro w hw
  cases hw
  exact h

theorem framed_wait : OpResult.Framed s .wait := by
  intro u h
  cases h

theorem framed_fail (e : CmdError) : OpResult.Framed s (.fail e) := by
  intro u h
  cases h

theorem framed_checked {cs : List (Bool × CmdError)} {r : OpResult} (h : r.Framed s) : (checked cs r).Framed s := by
  cases hf : firstFail cs with
  | some e => rw [checked_fail hf]; exact framed_fail e
  | none => rw [checked_pass hf]; exact h

/-- Every command is a completion (rule R73) whose writes stay in the frame of an operation. -/
theorem exec_eq_complete (i : Instr) (s : State) : ∃ r, exec i s = complete s r ∧ r.Framed s := by
  cases i with
  | nop | vclr => exact ⟨_, rfl, framed_ok ⟨rfl⟩⟩
  | vxor | vand | mvmul | rank | minv | graw | lkey | lenc | ldec | lsub | lisub | recon
  | gateAnd | gateOr | gateXor | gateNot | gateId => exact ⟨_, rfl, framed_checked (framed_ok ⟨rfl⟩)⟩
  | gss | gmat | linst | share | tgen =>
    refine ⟨_, rfl, framed_checked ?_⟩
    split
    · exact framed_wait
    · exact framed_ok ⟨rfl⟩
  | lxrd d c sel =>
    refine ⟨_, rfl, framed_checked ?_⟩
    cases sel <;> exact framed_ok ⟨rfl⟩

/-- What executing a command comes to: it waits, it records an error, or it retires with its operation's writes. -/
theorem exec_cases {i : Instr} (h : exec i s = .next t) :
    t = s ∨ (∃ e, t = s.failCommand e) ∨ ∃ u, OperationFrame s u ∧ t = u.retire := by
  obtain ⟨r, hr, hframe⟩ := exec_eq_complete i s
  rw [hr] at h
  cases r with
  | ok u => cases h; exact .inr (.inr ⟨u, hframe u rfl, rfl⟩)
  | fail e => cases h; exact .inr (.inl ⟨e, rfl⟩)
  | wait => cases h; exact .inl rfl

/-! ### What a host write can write (rule R41) -/

/-- From `s` to `t` a host write that is no soft reset was made: triples, views, VPTR, generator, RESULT, RETRIES, the ports
and the parameters stay. -/
structure HostWriteFrame (s t : State) : Prop where
  eq : t = { s with v := t.v, m := t.m, sh := t.sh, cx := t.cx, parties := t.parties, argA := t.argA, argB := t.argB,
                    ieDone := t.ieDone, ieErr := t.ieErr, notAll := t.notAll, done := t.done, drop := t.drop, err := t.err,
                    errCmd := t.errCmd, wsel := t.wsel, phase := t.phase }

theorem writeStatus_frame (s : State) (x : Word) : HostWriteFrame s (s.writeStatus x) := by
  unfold State.writeStatus
  split <;> exact ⟨rfl⟩

theorem writeCmd_frame (s : State) (x : Word) : HostWriteFrame s (s.writeCmd x) := by
  unfold State.writeCmd
  split <;> exact ⟨rfl⟩

theorem writeWdata_frame (s : State) (x : Word) : HostWriteFrame s (s.writeWdata x) := by
  rcases writeWdata_cases s x with h | ⟨i, -, -, h⟩ | ⟨i, -, -, -, h⟩ | ⟨i, -, -, h⟩ <;> rw [h] <;> exact ⟨rfl⟩

theorem writeWlen_frame (s : State) (x : Word) : HostWriteFrame s (s.writeWlen x) := by
  simp only [State.writeWlen]
  split
  case h_1 | h_2 | h_3 => split <;> exact ⟨rfl⟩
  case h_4 | h_5 | h_6 => exact ⟨rfl⟩

/-- A CTRL write is the soft reset or stays in the frame of a host write (rule R28). -/
theorem writeCtrl_frame (s : State) (x : Word) :
    (x.getLsbD 31 = true ∧ s.writeCtrl x = s.hardReset) ∨ HostWriteFrame s (s.writeCtrl x) := by
  unfold State.writeCtrl
  split
  · next hsrst => exact .inl ⟨hsrst, rfl⟩
  · exact .inr ⟨rfl⟩

theorem writeReg_frame (s : State) (q : HostReg) (x : Word) :
    (q = .ctrl ∧ x.getLsbD 31 = true ∧ s.writeReg q x = s.hardReset) ∨ HostWriteFrame s (s.writeReg q x) := by
  cases q with
  | ctrl => exact (writeCtrl_frame s x).imp_left fun h => ⟨rfl, h⟩
  | status => exact .inr (writeStatus_frame s x)
  | cmd => exact .inr (writeCmd_frame s x)
  | wdata => exact .inr (writeWdata_frame s x)
  | wlen => exact .inr (writeWlen_frame s x)
  | _ => exact .inr ⟨rfl⟩

/-- A host write, in every phase, is the soft reset or stays in the frame of a host write (rules R19, R21, R23, R26). -/
theorem writeHost_frame (s : State) (r : Option HostReg) (x : Word) :
    (r = some .ctrl ∧ x.getLsbD 31 = true ∧ s.writeHost r x = s.hardReset) ∨ HostWriteFrame s (s.writeHost r x) := by
  cases r with
  | none => exact .inr ⟨rfl⟩
  | some q =>
    unfold State.writeHost
    cases s.phase with
    | idle => simpa using writeReg_frame s q x
    | clearing => exact .inr ⟨rfl⟩
    | running j =>
      dsimp only
      split
      · simpa using writeCtrl_frame s x
      · exact .inr (writeStatus_frame s x)
      · split <;> exact .inr ⟨rfl⟩

/-! ### The parameters and the count of true-random bits (rules R6, R34, R113) -/

/-- From `s` to `t` the parameters stay and no true-random bit is given back. -/
structure KeepsSource (s t : State) : Prop where
  cfg : t.cfg = s.cfg
  used : s.trngUsed ≤ t.trngUsed

theorem KeepsSource.of_eq (hcfg : t.cfg = s.cfg) (hused : t.trngUsed = s.trngUsed) : KeepsSource s t :=
  ⟨hcfg, hused.ge⟩

theorem KeepsSource.trans (h : KeepsSource s t) (h' : KeepsSource t u) : KeepsSource s u :=
  ⟨h'.cfg.trans h.cfg, h.used.trans h'.used⟩

theorem OperationFrame.keepsSource (h : OperationFrame s u) : KeepsSource s u :=
  .of_eq (by rw [h.eq]) (by rw [h.eq])

theorem HostWriteFrame.keepsSource (h : HostWriteFrame s t) : KeepsSource s t :=
  .of_eq (by rw [h.eq]) (by rw [h.eq])

theorem exec_keepsSource {i : Instr} (h : exec i s = .next t) : KeepsSource s t := by
  rcases exec_cases h with rfl | ⟨e, rfl⟩ | ⟨u, hu, rfl⟩
  · exact .of_eq rfl rfl
  · exact .of_eq (failCommand_cfg s e) (failCommand_trngUsed s e)
  · exact hu.keepsSource.trans (.of_eq (retire_cfg u) (retire_trngUsed u))

theorem turnStep_keepsSource (h : s.turnStep = .next t) : KeepsSource s t := by
  rcases turnStep_cases h with ⟨-, rfl⟩ | ⟨-, rfl⟩ | ⟨j, -, ⟨e, -, rfl⟩ | ⟨i, -, hexec⟩⟩
  · exact .of_eq rfl rfl
  · exact .of_eq (endClearing_cfg s) (endClearing_trngUsed s)
  · exact .of_eq (failCommand_cfg s _) (failCommand_trngUsed s _)
  · exact exec_keepsSource hexec

theorem deliver_keepsSource (s : State) (bits : List Bool) : KeepsSource s (s.deliver bits) := by
  rcases deliver_cases s bits with ⟨j, -, h⟩ | ⟨-, h⟩ <;> rw [h]
  · exact ⟨rfl, Nat.le_add_right _ _⟩
  · exact .of_eq rfl rfl

theorem trngValid_keepsSource (s : State) (b : Bool) : KeepsSource s (s.trngValid b) := by
  rcases trngValid_cases s b with ⟨-, h⟩ | ⟨-, h⟩ <;> rw [h]
  · exact deliver_keepsSource s [b]
  · exact .of_eq rfl rfl

theorem readReg_keepsSource (s : State) (r : Option HostReg) : KeepsSource s (s.readReg r) := by
  obtain ⟨x, k, h⟩ := readReg_frame s r
  rw [h]
  exact .of_eq rfl rfl

theorem hardReset_keepsSource (s : State) : KeepsSource s s.hardReset :=
  .of_eq (hardReset_cfg s) (hardReset_trngUsed s)

theorem writeHost_keepsSource (s : State) (r : Option HostReg) (x : Word) : KeepsSource s (s.writeHost r x) := by
  rcases writeHost_frame s r x with ⟨-, -, h⟩ | h
  · rw [h]
    exact hardReset_keepsSource s
  · exact h.keepsSource

/-- Every step, whatever event of the script or turn of the engine it takes. -/
theorem step_keepsSource (h : step s = .next t) : KeepsSource s t := by
  obtain ⟨env, hcase⟩ := step_cases h
  have hscript : KeepsSource s { s with env := env } := .of_eq rfl rfl
  refine hscript.trans ?_
  rcases hcase with ⟨r, rfl⟩ | ⟨r, x, rfl⟩ | rfl | ⟨b, rfl⟩ | hturn | hauto
  · exact readReg_keepsSource _ r
  · exact writeHost_keepsSource _ r x
  · exact hardReset_keepsSource _
  · exact trngValid_keepsSource _ b
  · exact turnStep_keepsSource hturn
  · exact (deliver_keepsSource _ _).trans (turnStep_keepsSource hauto)

/-- Settles O59: each kind of step keeps the parameters and never lowers the count. -/
theorem stepKeepsParametersAndTrngCount : Obligations.StepKeepsParametersAndTrngCount := by
  intro s t h
  have hkeeps := step_keepsSource h
  exact ⟨hkeeps.cfg, hkeeps.used⟩

end Sys2Proof.Machine
end

section
/-! PROOFS. The sizes of rule R35 items 1 to 5, split into one statement per register file, and what each named write of the
state needs to keep them. -/

namespace Sys2Proof.Machine

variable {s t : State} {p : Params}

/-! ### A file of registers -/

/-- A register file has `n` registers, and each one satisfies `Q` (rules R13 to R24). -/
def FileOk {α : Type} (n : Nat) (Q : α → Prop) (file : List α) : Prop := file.length = n ∧ ∀ r ∈ file, Q r

theorem FileOk.replicate {α : Type} {n : Nat} {Q : α → Prop} {r : α} (h : Q r) : FileOk n Q (List.replicate n r) :=
  ⟨List.length_replicate, fun x hx => by rwa [List.eq_of_mem_replicate hx]⟩

/-- A write to a file keeps the file when the written register is in order; a write outside it does nothing. -/
theorem FileOk.set {α : Type} {n : Nat} {Q : α → Prop} {file : List α} (h : FileOk n Q file) (i : Nat) {r : α} (hr : Q r) :
    FileOk n Q (file.set i r) := by
  refine ⟨by rw [List.length_set, h.1], fun x hx => ?_⟩
  rcases List.mem_or_eq_of_mem_set hx with hmem | rfl
  · exact h.2 x hmem
  · exact hr

/-- A register read by its index is in order, the default of an index outside the file included. -/
theorem FileOk.getD {α : Type} {n : Nat} {Q : α → Prop} {file : List α} (h : FileOk n Q file) (i : Nat) {d : α} (hd : Q d) :
    Q (file.getD i d) := by
  by_cases hi : i < file.length
  · rw [List.getD_eq_getElem _ _ hi]
    exact h.2 _ (List.getElem_mem hi)
  · rwa [List.getD_eq_default _ _ (Nat.le_of_not_lt hi)]

/-! ### One register -/

/-- A vector register is in its bounds (rules R14, R15). -/
def VReg.Fits (p : Params) (r : VReg) : Prop := r.len ≤ p.dmax ∧ r.bits.toNat < 2 ^ p.dmax

/-- A matrix register is in its bounds (rule R16). -/
def MReg.Fits (p : Params) (r : MReg) : Prop :=
  r.rows ≤ p.dmax ∧ r.cols ≤ p.dmax ∧ r.bits.length = p.dmax ∧ ∀ x ∈ r.bits, x.toNat < 2 ^ p.dmax

/-- A share register is in its bounds (rule R17). -/
def SReg.Fits (p : Params) (r : SReg) : Prop := r.cnt ≤ p.pmax ∧ r.b.toNat < 2 ^ p.pmax

/-- A triple register is in its bounds (rule R19). -/
def TReg.Fits (p : Params) (r : TReg) : Prop :=
  r.cnt ≤ p.pmax ∧ r.a.toNat < 2 ^ p.pmax ∧ r.b.toNat < 2 ^ p.pmax ∧ r.c.toNat < 2 ^ p.pmax

/-- A matrix value fits a matrix register (rule R16). -/
structure Mat.Fits (p : Params) (A : Mat) : Prop where
  rows : A.rows ≤ p.dmax
  cols : A.cols ≤ p.dmax
  length : A.row.length ≤ p.dmax
  row : ∀ w ∈ A.row, w.length ≤ p.dmax

/-- An empty string is in every bound. -/
theorem toNat_zero_lt (n k : Nat) : (0 : BitVec n).toNat < 2 ^ k := by
  simp

theorem VReg.empty_fits (p : Params) : VReg.empty.Fits p := ⟨Nat.zero_le _, toNat_zero_lt _ _⟩

theorem MReg.empty_fits (p : Params) : (MReg.empty p).Fits p := by
  refine ⟨Nat.zero_le _, Nat.zero_le _, List.length_replicate, fun x hx => ?_⟩
  rw [List.eq_of_mem_replicate hx]
  exact toNat_zero_lt _ _

theorem SReg.empty_fits (p : Params) : SReg.empty.Fits p := ⟨Nat.zero_le _, toNat_zero_lt _ _⟩

theorem TReg.empty_fits (p : Params) : TReg.empty.Fits p :=
  ⟨Nat.zero_le _, toNat_zero_lt _ _, toNat_zero_lt _ _, toNat_zero_lt _ _⟩

theorem Mat.empty_fits (p : Params) : Mat.empty.Fits p := ⟨Nat.zero_le _, Nat.zero_le _, Nat.zero_le _, nofun⟩

/-- A context that is not instantiated and not keyed has its shape, whatever it holds (rule R24). -/
theorem Ctx.shape_of_cleared (p : Params) {x : Ctx} (hinst : x.inst = false) (hkeyed : x.keyed = false) : x.Shape p := by
  simp [Ctx.Shape, hinst, hkeyed]

theorem Ctx.empty_shape (p : Params) : Ctx.empty.Shape p := Ctx.shape_of_cleared p rfl rfl

/-- A matrix of a shape within DMAX fits a register. -/
theorem Mat.Shape.fits {R C : Nat} {A : Mat} (h : A.Shape R C) (hR : R ≤ p.dmax) (hC : C ≤ p.dmax) : A.Fits p := by
  obtain ⟨hrows, hcols, hlen, hrow⟩ := h
  exact ⟨hrows ▸ hR, hcols ▸ hC, hlen ▸ hR, fun w hw => hrow w hw ▸ hC⟩

theorem matStore_fits {A : Mat} (h : A.Fits p) : (matStore p.dmax A).Fits p := by
  refine ⟨h.rows, h.cols, by simp [matStore], fun x hx => ?_⟩
  simp only [matStore, List.mem_map] at hx
  obtain ⟨r, -, rfl⟩ := hx
  exact toNat_storeOf_lt (FileOk.getD ⟨rfl, h.row⟩ r (Nat.zero_le _))

/-- A string whose bits at and above `k` are 0 is below `2^k`. -/
theorem toNat_lt_of_getLsbD {n k : Nat} {x : BitVec n} (h : ∀ j, k ≤ j → x.getLsbD j = false) : x.toNat < 2 ^ k :=
  Nat.lt_pow_two_of_testBit _ fun j hj => h j hj

theorem getLsbD_of_toNat_lt {n k : Nat} {x : BitVec n} (h : x.toNat < 2 ^ k) {j : Nat} (hj : k ≤ j) :
    x.getLsbD j = false :=
  Nat.testBit_lt_two_pow (h.trans_le (Nat.pow_le_pow_right (by omega) hj))

/-- A bit written below `size` leaves the storage bits from `size` up as they are (rule R15). -/
theorem toNat_putBit_lt {n size k : Nat} {b : Bool} {x : BitVec n} (hx : x.toNat < 2 ^ size) (hk : k < size) :
    (putBit k b x).toNat < 2 ^ size := by
  refine toNat_lt_of_getLsbD fun j hj => ?_
  have hjk : ¬ (j = k ∧ k < n) := by omega
  rw [getLsbD_putBit, if_neg hjk]
  exact getLsbD_of_toNat_lt hx hj

/-- What the host writes of a share array cut to elements 0 to PMAX stays below PMAX party bits (rule R17). -/
theorem toNat_partyBitsOf_lt {size : Nat} {x : BitVec 256} (hx : x.toNat < 2 ^ (size + 1)) :
    (partyBitsOf x).toNat < 2 ^ size := by
  refine toNat_lt_of_getLsbD fun j hj => ?_
  rw [getLsbD_partyBitsOf, getLsbD_of_toNat_lt hx (by omega), Bool.and_false]

/-! ### All of them -/

/-- The sizes that rule R35 items 1 to 5 ask of the stored state: `State.Shape` without what it asks of the command in
flight. -/
structure State.FilesOk (s : State) : Prop where
  cfg : s.cfg.valid
  v : FileOk s.cfg.nv (VReg.Fits s.cfg) s.v
  m : FileOk s.cfg.nm (MReg.Fits s.cfg) s.m
  sh : FileOk s.cfg.ns (SReg.Fits s.cfg) s.sh
  tr : FileOk s.cfg.nt (TReg.Fits s.cfg) s.tr
  views : FileOk s.cfg.pmax (fun v : Vec => v.length = s.vptr) s.views
  vptr : s.vptr ≤ s.cfg.vcap
  cx : FileOk s.cfg.nctx (Ctx.Shape s.cfg) s.cx

theorem State.shape_iff : s.Shape ↔ s.FilesOk ∧ s.jobOk := by
  constructor
  · rintro ⟨hcfg, hv, hm, hsh, htr, ⟨hlen, hvptr, hviews⟩, hcx, hjob⟩
    exact ⟨⟨hcfg, hv, hm, hsh, htr, ⟨hlen, hviews⟩, hvptr, hcx⟩, hjob⟩
  · rintro ⟨h, hjob⟩
    exact ⟨h.cfg, h.v, h.m, h.sh, h.tr, ⟨h.views.1, h.vptr, h.views.2⟩, h.cx, hjob⟩

/-- With no command in flight nothing is asked of one. -/
theorem State.jobOk_of_not_running (h : s.phase.inFlight = none) : s.jobOk := by
  simp [State.jobOk, h]

namespace State.FilesOk

theorem resetOf (h : p.valid) : (State.resetOf p).FilesOk where
  cfg := h
  v := .replicate (VReg.empty_fits p)
  m := .replicate (MReg.empty_fits p)
  sh := .replicate (SReg.empty_fits p)
  tr := .replicate (TReg.empty_fits p)
  views := .replicate rfl
  vptr := Nat.zero_le _
  cx := .replicate (Ctx.empty_shape p)

/-! What a command reads is in its bounds. -/

theorem vreg (h : s.FilesOk) (i : RegIdx) : (s.vreg i).Fits s.cfg := h.v.getD _ (VReg.empty_fits _)

theorem mreg (h : s.FilesOk) (i : RegIdx) : (s.mreg i).Fits s.cfg := h.m.getD _ (MReg.empty_fits _)

theorem treg (h : s.FilesOk) (i : RegIdx) : (s.treg i).Fits s.cfg := h.tr.getD _ (TReg.empty_fits _)

theorem ctx (h : s.FilesOk) (i : RegIdx) : (s.ctx i).Shape s.cfg := h.cx.getD _ (Ctx.empty_shape _)

theorem length_vec_le (h : s.FilesOk) (i : RegIdx) : (s.vec i).length ≤ s.cfg.dmax := by
  rw [length_vec]
  exact (h.vreg i).1

/-! Each write of a command keeps the sizes when the written value is in its bounds. -/

theorem putVec (h : s.FilesOk) (d : RegIdx) {x : Vec} (hx : x.length ≤ s.cfg.dmax) : (s.putVec d x).FilesOk :=
  { h with v := h.v.set _ ⟨hx, toNat_storeOf_lt hx⟩ }

theorem putVecBit (h : s.FilesOk) (d : RegIdx) {k : Nat} (b : Bool) (hk : k < (s.vreg d).len) :
    (s.putVecBit d k b).FilesOk :=
  { h with v := h.v.set _ ⟨(h.vreg d).1, toNat_putBit_lt (h.vreg d).2 (hk.trans_le (h.vreg d).1)⟩ }

theorem putMat (h : s.FilesOk) (d : RegIdx) {A : Mat} (hA : A.Fits s.cfg) : (s.putMat d A).FilesOk :=
  { h with m := h.m.set _ (matStore_fits hA) }

theorem putShare (h : s.FilesOk) (d : RegIdx) {n : Nat} {z : Vec} (hn : n ≤ s.cfg.pmax) (hz : z.length ≤ n) :
    (s.putShare d n z).FilesOk :=
  { h with sh := h.sh.set _ ⟨hn, toNat_storeOf_lt (hz.trans hn)⟩ }

theorem putTriple (h : s.FilesOk) (d : RegIdx) {x : TReg} (hx : x.Fits s.cfg) : (s.putTriple d x).FilesOk :=
  { h with tr := h.tr.set _ hx }

theorem useTriple (h : s.FilesOk) (d : RegIdx) : (s.useTriple d).FilesOk := h.putTriple d (h.treg d)

theorem putCtx (h : s.FilesOk) (c : RegIdx) {x : Ctx} (hx : x.Shape s.cfg) : (s.putCtx c x).FilesOk :=
  { h with cx := h.cx.set _ hx }

theorem putLfsr (h : s.FilesOk) (l : Lfsr) : (s.putLfsr l).FilesOk := { h with }

theorem putResult (h : s.FilesOk) (x : Word) : (s.putResult x).FilesOk := { h with }

theorem putRetries (h : s.FilesOk) (x : Word) : (s.putRetries x).FilesOk := { h with }

theorem retire (h : s.FilesOk) : s.retire.FilesOk := { h with }

theorem putViews (h : s.FilesOk) {views : List Vec} {vptr : Nat}
    (hviews : FileOk s.cfg.pmax (fun v : Vec => v.length = vptr) views) (hvptr : vptr ≤ s.cfg.vcap) : (s.putViews views vptr).FilesOk :=
  { h with views := hviews, vptr := hvptr }

end State.FilesOk

/-- The generator's register after reset is not all zeros (rules R23, R95). -/
theorem Lfsr.reset_alive : Lfsr.reset.s ≠ 0 := by decide

/-- Settles O55: every register of a block right after reset is empty, and the generator's register is all ones. -/
theorem resetMeetsTheInvariants : Obligations.ResetMeetsTheInvariants := by
  refine ⟨fun p hp => ⟨State.shape_iff.mpr ⟨.resetOf hp, nofun⟩, fun x hx => ?_, Lfsr.reset_alive⟩, rfl, by decide⟩
  rw [List.eq_of_mem_replicate hx]
  exact nofun

end Sys2Proof.Machine
end

section
/-! PROOFS. What a predicate of the stored state needs so that every step keeps it. A step is a quiet change, a reset, the
acceptance of a command, a host write to the window or to the parameters of a context, or the completion of a command. -/

namespace Sys2Proof.Machine

variable {s t u : State} {P : State → Prop}

/-! ### Quiet changes -/

/-- From `s` to `t` no register file, view, context, parameter or generator changed, and a command in flight in `t` was in
flight in `s` with the same sampled contexts, with no new error recorded. -/
structure Quiet (s t : State) : Prop where
  eq : t = { s with parties := t.parties, result := t.result, retries := t.retries, argA := t.argA, argB := t.argB,
                    ieDone := t.ieDone, ieErr := t.ieErr, notAll := t.notAll, done := t.done, drop := t.drop, err := t.err,
                    errCmd := t.errCmd, wsel := t.wsel, phase := t.phase, env := t.env, rdata := t.rdata,
                    trngUsed := t.trngUsed, freeReads := t.freeReads }
  job : ∀ j ∈ t.phase.inFlight, ∃ i ∈ s.phase.inFlight, j.cxp = i.cxp ∧ (s.err = none → t.err = none)

namespace Quiet

theorem refl (s : State) : Quiet s s := ⟨rfl, fun j hj => ⟨j, hj, rfl, id⟩⟩

theorem script (s : State) (env : List EnvEvent) : Quiet s { s with env := env } :=
  ⟨rfl, fun j hj => ⟨j, hj, rfl, id⟩⟩

theorem setDrop (s : State) : Quiet s s.setDrop := ⟨rfl, fun j hj => ⟨j, hj, rfl, id⟩⟩

theorem retire (s : State) : Quiet s s.retire := ⟨rfl, nofun⟩

theorem failCommand (s : State) (e : CmdError) : Quiet s (s.failCommand e) := ⟨rfl, nofun⟩

theorem endClearing (s : State) : Quiet s s.endClearing := ⟨rfl, nofun⟩

theorem readReg (s : State) (r : Option HostReg) : Quiet s (s.readReg r) := by
  obtain ⟨x, k, h⟩ := readReg_frame s r
  rw [h]
  exact ⟨rfl, fun j hj => ⟨j, hj, rfl, id⟩⟩

theorem deliver (s : State) (bits : List Bool) : Quiet s (s.deliver bits) := by
  rcases deliver_cases s bits with ⟨j, hj, h⟩ | ⟨-, h⟩ <;> rw [h]
  · refine ⟨rfl, fun i hi => ⟨j, by rw [hj]; rfl, ?_, id⟩⟩
    cases hi
    rfl
  · exact refl s

theorem trngValid (s : State) (b : Bool) : Quiet s (s.trngValid b) := by
  rcases trngValid_cases s b with ⟨-, h⟩ | ⟨-, h⟩ <;> rw [h]
  · exact deliver s [b]
  · exact refl s

theorem writeStatus (s : State) (x : Word) : Quiet s (s.writeStatus x) := by
  unfold State.writeStatus
  split
  · exact ⟨rfl, fun j hj => ⟨j, hj, rfl, fun _ => rfl⟩⟩
  · exact ⟨rfl, fun j hj => ⟨j, hj, rfl, id⟩⟩

end Quiet

/-- A CTRL write is the soft reset or a quiet change (rule R28). -/
theorem writeCtrl_cases (s : State) (x : Word) : s.writeCtrl x = s.hardReset ∨ Quiet s (s.writeCtrl x) := by
  unfold State.writeCtrl
  split
  · exact .inl rfl
  · exact .inr ⟨rfl, fun j hj => ⟨j, hj, rfl, id⟩⟩

/-! ### The completion of a command -/

/-- The outcome `o` is a completion (rule R73), and if the command's operation makes its writes, `P` holds once the command is
retired. -/
def Completes (P : State → Prop) (s : State) (o : Host.Outcome State Fault Refusal) : Prop :=
  ∃ r, o = complete s r ∧ ∀ u, r = .ok u → P u.retire

theorem completes_ok (h : P u.retire) : Completes P s (complete s (.ok u)) :=
  ⟨_, rfl, fun w hw => by cases hw; exact h⟩

theorem completes_of_checked {cs : List (Bool × CmdError)} {r : OpResult}
    (h : firstFail cs = none → ∀ u, r = .ok u → P u.retire) : Completes P s (complete s (checked cs r)) := by
  refine ⟨_, rfl, fun u hu => ?_⟩
  cases hf : firstFail cs with
  | some e => rw [checked_fail hf] at hu; cases hu
  | none => rw [checked_pass hf] at hu; exact h hf u hu

theorem completes_of_checked_ok {cs : List (Bool × CmdError)} (h : firstFail cs = none → P u.retire) :
    Completes P s (complete s (checked cs (.ok u))) :=
  completes_of_checked fun hf w hw => by cases hw; exact h hf

theorem Completes.mono {Q : State → Prop} {o : Host.Outcome State Fault Refusal} (h : Completes P s o)
    (hPQ : ∀ u : State, P u.retire → Q u.retire) : Completes Q s o := by
  obtain ⟨r, ho, hok⟩ := h
  exact ⟨r, ho, fun u hu => hPQ u (hok u hu)⟩

theorem Completes.of_next {o : Host.Outcome State Fault Refusal} (h : Completes P s o)
    (hquiet : ∀ {s t}, Quiet s t → P s → P t) (hs : P s) (ho : o = .next t) : P t := by
  obtain ⟨r, rfl, hok⟩ := h
  cases r with
  | ok u => cases ho; exact hok u rfl
  | fail e => cases ho; exact hquiet (.failCommand s e) hs
  | wait => cases ho; exact hs

/-! ### Step invariants -/

/-- What a predicate needs to be kept by every step. -/
structure StepInvariant (P : State → Prop) : Prop where
  quiet : ∀ {s t}, Quiet s t → P s → P t
  hardReset : ∀ {s}, P s → P s.hardReset
  accept : ∀ {s} w, s.err = none → P s → P (s.accept w)
  writeWdata : ∀ {s} x, s.phase = .idle → P s → P (s.writeWdata x)
  writeWlen : ∀ {s} x, s.phase = .idle → P s → P (s.writeWlen x)
  writeCxp : ∀ {s} c par, s.phase = .idle → P s → P (s.writeCxp c par)
  exec : ∀ {s t j} i, s.phase = .running j → P s → exec i s = .next t → P t

namespace StepInvariant

theorem writeCtrl (hP : StepInvariant P) (x : Word) (hs : P s) : P (s.writeCtrl x) := by
  rcases writeCtrl_cases s x with h | h
  · rw [h]; exact hP.hardReset hs
  · exact hP.quiet h hs

theorem writeCmd (hP : StepInvariant P) (x : Word) (hs : P s) : P (s.writeCmd x) := by
  unfold State.writeCmd
  split
  · exact hP.quiet (.setDrop s) hs
  · next herr => exact hP.accept x (by simpa using herr) hs

theorem writeReg (hP : StepInvariant P) (q : HostReg) (x : Word) (hidle : s.phase = .idle) (hs : P s) :
    P (s.writeReg q x) := by
  cases q with
  | ctrl => exact hP.writeCtrl x hs
  | status => exact hP.quiet (.writeStatus s x) hs
  | cmd => exact hP.writeCmd x hs
  | wdata => exact hP.writeWdata x hidle hs
  | wlen => exact hP.writeWlen x hidle hs
  | cxp0 c | cxp1 c => exact hP.writeCxp c _ hidle hs
  | arg | parties | wsel => exact hP.quiet ⟨rfl, fun j hj => ⟨j, hj, rfl, id⟩⟩ hs
  | id | cfg0 | cfg1 | cfg2 | cfg3 | err | errcmd | result | vptr | retries | lfsr0 | lfsr1 | lfsr2 | cxst c => exact hs

theorem writeHost (hP : StepInvariant P) (r : Option HostReg) (x : Word) (hs : P s) : P (s.writeHost r x) := by
  rcases writeHost_cases s r x with h | h | h | h | ⟨q, -, hidle, h⟩ <;> rw [h]
  · exact hs
  · exact hP.quiet (.setDrop s) hs
  · exact hP.writeCtrl x hs
  · exact hP.quiet (.writeStatus s x) hs
  · exact hP.writeReg q x hidle hs

theorem turnStep (hP : StepInvariant P) (hs : P s) (h : s.turnStep = .next t) : P t := by
  rcases turnStep_cases h with ⟨-, rfl⟩ | ⟨-, rfl⟩ | ⟨j, hj, ⟨e, -, rfl⟩ | ⟨i, -, hexec⟩⟩
  · exact hs
  · exact hP.quiet (.endClearing s) hs
  · exact hP.quiet (.failCommand s _) hs
  · exact hP.exec i hj hs hexec

/-- Every step keeps a step invariant, whatever event of the script or turn of the engine it takes. -/
theorem step (hP : StepInvariant P) (hs : P s) (h : step s = .next t) : P t := by
  obtain ⟨env, hcase⟩ := step_cases h
  have hscript : P { s with env := env } := hP.quiet (.script s env) hs
  rcases hcase with ⟨r, rfl⟩ | ⟨r, x, rfl⟩ | rfl | ⟨b, rfl⟩ | hturn | hauto
  · exact hP.quiet (.readReg _ r) hscript
  · exact hP.writeHost r x hscript
  · exact hP.hardReset hscript
  · exact hP.quiet (.trngValid _ b) hscript
  · exact hP.turnStep hscript hturn
  · exact hP.turnStep (hP.quiet (.deliver _ _) hscript) hauto

end StepInvariant

end Sys2Proof.Machine
end

section
/-! PROOFS. Every step keeps the sizes of rule R35 items 1 to 5: the sizes of the values that the commands compute, then one
lemma per command. -/

namespace Sys2Proof.Machine

variable {s t u : State} {p : Params} {x : Ctx}

/-! ### Cipher contexts (rule R24) -/

theorem FileOk.mono {α : Type} {n : Nat} {Q R : α → Prop} {file : List α} (h : FileOk n Q file) (hQR : ∀ r, Q r → R r) :
    FileOk n R file :=
  ⟨h.1, fun r hr => hQR r (h.2 r hr)⟩

theorem validParams_iff {y : CxParams} : validParams p y = true ↔
    1 ≤ y.bs.toNat ∧ y.bs.toNat ≤ p.dmax ∧ 1 ≤ y.ks.toNat ∧ y.ks.toNat ≤ p.dmax ∧ 3 * y.m.toNat ≤ y.bs.toNat ∧
      y.r.toNat ≤ p.rmax := by
  simp [validParams, and_assoc]

/-- What INST makes meaningful has the sizes of the context's parameters (rule R24). -/
structure Ctx.Instantiated (p : Params) (x : Ctx) : Prop where
  valid : validParams p x.par = true
  lin : FileOk x.par.r.toNat (Mat.Shape x.par.bs.toNat x.par.bs.toNat) x.lin
  invlin : FileOk x.par.r.toNat (Mat.Shape x.par.bs.toNat x.par.bs.toNat) x.invlin
  rc : FileOk x.par.r.toNat (fun v : Vec => v.length = x.par.bs.toNat) x.rc
  km : FileOk (x.par.r.toNat + 1) (Mat.Shape x.par.bs.toNat x.par.ks.toNat) x.km

/-- What KEYED makes meaningful has the sizes of the context's parameters (rule R24). -/
structure Ctx.KeyScheduled (x : Ctx) : Prop where
  mkey : x.mkey.length = x.par.ks.toNat
  rk : FileOk (x.par.r.toNat + 1) (fun v : Vec => v.length = x.par.bs.toNat) x.rk

theorem Ctx.Shape.instantiated (h : x.Shape p) (hinst : x.inst = true) : x.Instantiated p := by
  obtain ⟨hvalid, hlin, hinvlin, hrc, hkm⟩ := h.2.1 hinst
  exact ⟨hvalid, hlin, hinvlin, hrc, hkm⟩

theorem Ctx.Shape.keyScheduled (h : x.Shape p) (hkeyed : x.keyed = true) : x.KeyScheduled := by
  obtain ⟨hmkey, hrk⟩ := h.2.2 hkeyed
  exact ⟨hmkey, hrk⟩

theorem Ctx.Shape.inst_of_keyed (h : x.Shape p) (hkeyed : x.keyed = true) : x.inst = true := h.1 hkeyed

/-- An instantiated context that is keyed, if at all, with a key schedule has its shape. -/
theorem Ctx.Instantiated.shape (h : x.Instantiated p) (hinst : x.inst = true) (hkey : x.keyed = true → x.KeyScheduled) :
    x.Shape p :=
  ⟨fun _ => hinst, fun _ => ⟨h.valid, h.lin, h.invlin, h.rc, h.km⟩, fun hk => ⟨(hkey hk).mkey, (hkey hk).rk⟩⟩

namespace Ctx.Instantiated

theorem bs_le (h : x.Instantiated p) : x.par.bs.toNat ≤ p.dmax := by
  obtain ⟨-, hbs, -⟩ := validParams_iff.mp h.valid
  exact hbs

theorem ks_le (h : x.Instantiated p) : x.par.ks.toNat ≤ p.dmax := by
  obtain ⟨-, -, -, hks, -⟩ := validParams_iff.mp h.valid
  exact hks

theorem lin_fits (h : x.Instantiated p) (i : Nat) : (x.lin.getD i .empty).Fits p :=
  (h.lin.mono fun _ hA => hA.fits h.bs_le h.bs_le).getD i (Mat.empty_fits p)

theorem invlin_fits (h : x.Instantiated p) (i : Nat) : (x.invlin.getD i .empty).Fits p :=
  (h.invlin.mono fun _ hA => hA.fits h.bs_le h.bs_le).getD i (Mat.empty_fits p)

theorem km_fits (h : x.Instantiated p) (i : Nat) : (x.km.getD i .empty).Fits p :=
  (h.km.mono fun _ hA => hA.fits h.bs_le h.ks_le).getD i (Mat.empty_fits p)

theorem length_rc_le (h : x.Instantiated p) (i : Nat) : (x.rc.getD i []).length ≤ p.dmax :=
  (h.rc.mono fun _ hv => hv.trans_le h.bs_le).getD i (Nat.zero_le _)

theorem length_rk_le (h : x.Instantiated p) (hk : x.KeyScheduled) (i : Nat) : (x.rk.getD i []).length ≤ p.dmax :=
  (hk.rk.mono fun _ hv => hv.trans_le h.bs_le).getD i (Nat.zero_le _)

/-- The key schedule of rule R100 gives the context a master key and round keys of its sizes. -/
theorem setKey_shape (h : x.Instantiated p) (hinst : x.inst = true) {k : Vec} (hk : k.length = x.par.ks.toNat) :
    (setKey x.par.r.toNat k x).Shape p := by
  have hrk : FileOk (x.par.r.toNat + 1) (fun v : Vec => v.length = x.par.bs.toNat)
      ((List.range (x.par.r.toNat + 1)).map fun i => matVecMul (x.km.getD i .empty) k) := by
    refine ⟨by simp, fun v hv => ?_⟩
    simp only [List.mem_map, List.mem_range] at hv
    obtain ⟨i, hi, rfl⟩ := hv
    have hi' : i < x.km.length := h.km.1 ▸ hi
    rw [length_matVecMul, List.getD_eq_getElem _ _ hi']
    obtain ⟨-, -, hlen, -⟩ := h.km.2 _ (List.getElem_mem hi')
    exact hlen
  have hkeyed : (setKey x.par.r.toNat k x).KeyScheduled := ⟨hk, hrk⟩
  have hsame : (setKey x.par.r.toNat k x).Instantiated p := ⟨h.valid, h.lin, h.invlin, h.rc, h.km⟩
  exact hsame.shape hinst fun _ => hkeyed

end Ctx.Instantiated

theorem matInv_shape {N : Nat} {A : Mat} (h : A.Shape N N) : (matInv A).Shape N N := by
  obtain ⟨rfl, hcols, hlen, hrow⟩ := h
  obtain ⟨hlen', hrow'⟩ := matInv_sizes hlen hrow
  exact ⟨rfl, rfl, hlen', hrow'⟩

/-- What a finished instantiation (rule R98) gives: the sizes of the parameters, the ranks of rule R35 item 6, INST without
KEYED. -/
structure InstantiatedFrom (y : CxParams) (x : Ctx) : Prop where
  par : x.par = y
  inst : x.inst = true
  keyed : x.keyed = false
  lin : FileOk y.r.toNat (Mat.Shape y.bs.toNat y.bs.toNat) x.lin
  rc : FileOk y.r.toNat (fun v : Vec => v.length = y.bs.toNat) x.rc
  km : FileOk (y.r.toNat + 1) (Mat.Shape y.bs.toNat y.ks.toNat) x.km
  invlin : x.invlin = x.lin.map matInv
  linRank : ∀ A ∈ x.lin, matRank A = y.bs.toNat
  kmRank : ∀ K ∈ x.km, min y.bs.toNat y.ks.toNat ≤ matRank K

theorem instantiate_spec {y : CxParams} {l l' : Lfsr} {rej : Nat} (h : instantiate y l = some (x, rej, l')) :
    InstantiatedFrom y x := by
  simp only [instantiate] at h
  split at h
  · cases h
  next lin rej1 l1 hlin =>
    split at h
    · cases h
    next rc l2 hrc =>
      split at h
      · cases h
      next km rej2 l3 hkm =>
        cases h
        obtain ⟨hlinLen, hlin⟩ := drawAccepted_spec hlin
        obtain ⟨hkmLen, hkm⟩ := drawAccepted_spec hkm
        exact {
          par := rfl, inst := rfl, keyed := rfl, invlin := rfl
          lin := ⟨hlinLen, fun A hA => (hlin A hA).2⟩
          rc := sizes_drawVectors hrc
          km := ⟨hkmLen, fun A hA => (hkm A hA).2⟩
          linRank := fun A hA => by simpa [fullRank] using (hlin A hA).1
          kmRank := fun K hK => by simpa [keyRank] using (hkm K hK).1 }

theorem InstantiatedFrom.with_par {y : CxParams} (h : InstantiatedFrom y x) : ({ x with par := y } : Ctx) = x := by
  rw [← h.par]

theorem InstantiatedFrom.shape {y : CxParams} (h : InstantiatedFrom y x) (hy : validParams p y = true) : x.Shape p := by
  obtain ⟨rfl, hinst, hkeyed, hlin, hrc, hkm, hinvlin, -, -⟩ := h
  have hinv : FileOk x.par.r.toNat (Mat.Shape x.par.bs.toNat x.par.bs.toNat) x.invlin := by
    rw [hinvlin]
    refine ⟨by rw [List.length_map, hlin.1], fun B hB => ?_⟩
    obtain ⟨A, hA, rfl⟩ := List.mem_map.mp hB
    exact matInv_shape (hlin.2 A hA)
  have hx : x.Instantiated p := ⟨hy, hlin, hinv, hrc, hkm⟩
  exact hx.shape hinst fun hk => by rw [hkeyed] at hk; cases hk

/-! ### The sizes of computed values -/

/-- The block stays within `n` bits through the rounds of rule R103. -/
theorem length_encrypt_le {m r n : Nat} {v : Vec} (hv : v.length ≤ n) (hlin : ∀ i, (x.lin.getD i .empty).row.length ≤ n) :
    (encrypt m r x v).length ≤ n := by
  refine List.foldlRecOn (motive := fun b : Vec => b.length ≤ n) (List.range r) (encryptRound m x) ?_ fun b _ i _ => ?_
  · exact (length_vecXor _ _).trans_le ((min_le_left _ _).trans hv)
  · simp only [encryptRound, length_vecXor, length_matVecMul]
    exact (min_le_left _ _).trans ((min_le_left _ _).trans (hlin i))

theorem length_decrypt_le (m r : Nat) (x : Ctx) (v : Vec) : (decrypt m r x v).length ≤ (x.rk.getD 0 []).length := by
  rw [decrypt, length_vecXor]
  exact min_le_right _ _

@[simp] theorem length_drawRaw (k : Nat) (l : Lfsr) : (drawRaw k l).1.length = k := by
  induction k generalizing l with
  | zero => rfl
  | succ k ih => simp [drawRaw, ih]

@[simp] theorem length_flipFirst (b : Bool) (v : Vec) : (flipFirst b v).length = v.length := by
  cases v <;> rfl

theorem length_gateAndOf_le (x y a b c : Vec) : (gateAndOf x y a b c).length ≤ c.length := by
  simp [gateAndOf]

theorem length_gateOrOf_le (x y a b c : Vec) : (gateOrOf x y a b c).length ≤ c.length := by
  simp only [gateOrOf, length_vecXor]
  exact (min_le_left _ _).trans ((min_le_left _ _).trans (length_gateAndOf_le x y a b c))

@[simp] theorem length_gateNotOf (notAll : Bool) (v : Vec) : (gateNotOf notAll v).length = v.length := by
  cases notAll <;> simp [gateNotOf]

theorem length_shareOf_take_le {n : Nat} (hn : 2 ≤ n) (secret : Bool) (bits : List Bool) :
    (shareOf secret (bits.take (n - 1))).length ≤ n := by
  simp only [shareOf, List.length_cons, List.length_take]
  omega

theorem tripleOf_fits {n : Nat} (hn : 2 ≤ n) (hp : n ≤ p.pmax) (bits : List Bool) : (tripleOf n bits).Fits p :=
  ⟨hp, toNat_storeOf_lt ((length_shareOf_take_le hn _ _).trans hp),
    toNat_storeOf_lt ((length_shareOf_take_le hn _ _).trans hp),
    toNat_storeOf_lt ((length_shareOf_take_le hn _ _).trans hp)⟩

/-- A view record of `n` parties has `5 + 2n` bits (rule R129). -/
theorem length_viewRecord {n : Nat} {x y a b : Vec} (hx : x.length = n) (hy : y.length = n) (ha : a.length = n)
    (hb : b.length = n) (c : Vec) (q : Nat) : (viewRecord x y a b c q).length = 5 + 2 * n := by
  simp [viewRecord, hx, hy, ha, hb]
  omega

theorem mat_fits (h : s.FilesOk) (i : RegIdx) : (s.mat i).Fits s.cfg := by
  obtain ⟨hrows, hcols, -, -⟩ := h.mreg i
  exact ⟨hrows, hcols, by simpa using hrows, fun w hw => (length_of_mem_mat_row i hw).trans_le hcols⟩

/-- The inverse of a register's square matrix fits a register. -/
theorem matInv_mat_fits (h : s.FilesOk) (i : RegIdx) (hsquare : (s.mat i).rows = (s.mat i).cols) :
    (matInv (s.mat i)).Fits s.cfg := by
  have hshape : (s.mat i).Shape (s.mat i).rows (s.mat i).rows :=
    ⟨rfl, hsquare.symm, length_mat_row i, fun w hw => (length_of_mem_mat_row i hw).trans hsquare.symm⟩
  exact (matInv_shape hshape).fits (mat_fits h i).rows (mat_fits h i).rows

/-! ### What the checks and the sampled parameters say -/

theorem okParties_iff : s.okParties = true ↔ 2 ≤ s.partyCount ∧ s.partyCount ≤ s.cfg.pmax := by
  simp [State.okParties]

/-- The sampled parameters of a context are its live ones while a command is in flight (rule R49). -/
theorem params_eq_par {j : Job} (hj : s.phase = .running j) (hjob : s.jobOk) (c : RegIdx) : s.params c = (s.ctx c).par := by
  obtain ⟨-, hcxp⟩ := hjob j (by rw [hj]; rfl)
  rw [State.params, job_of_running hj, hcxp]
  exact List.getD_map s.cx Ctx.empty fun x => x.par

/-! ### The sizes after each command -/

section
variable (h : s.FilesOk)
include h

theorem execVxor_files (d a b : RegIdx) : Completes State.FilesOk s (execVxor d a b s) :=
  completes_of_checked_ok fun _ =>
    (h.putVec d ((length_vecXor _ _).trans_le ((min_le_left _ _).trans (h.length_vec_le a)))).retire

theorem execVand_files (d a b : RegIdx) : Completes State.FilesOk s (execVand d a b s) :=
  completes_of_checked_ok fun _ =>
    (h.putVec d ((length_vecAnd _ _).trans_le ((min_le_left _ _).trans (h.length_vec_le a)))).retire

theorem execMvmul_files (d a b : RegIdx) : Completes State.FilesOk s (execMvmul d a b s) :=
  completes_of_checked_ok fun _ => (h.putVec d ((length_matVecMul _ _).trans_le (mat_fits h a).length)).retire

theorem execRank_files (a : RegIdx) : Completes State.FilesOk s (execRank a s) :=
  completes_of_checked_ok fun _ => (h.putResult _).retire

theorem execMinv_files (d a : RegIdx) : Completes State.FilesOk s (execMinv d a s) :=
  completes_of_checked_ok fun hf => by
    simp only [firstFail_eq_none, List.forall_mem_cons, decide_eq_true_eq] at hf
    obtain ⟨-, hsquare, -⟩ := hf
    exact (h.putMat d (matInv_mat_fits h a hsquare)).retire

theorem execGraw_files (d : RegIdx) (len : Imm) : Completes State.FilesOk s (execGraw d len s) :=
  completes_of_checked_ok fun hf => by
    simp only [firstFail_eq_none, List.forall_mem_cons, decide_eq_true_eq] at hf
    obtain ⟨-, hlen, -⟩ := hf
    exact ((h.putVec d ((length_drawRaw _ _).trans_le hlen)).putLfsr _).retire

theorem execGss_files (d : RegIdx) (len : Imm) : Completes State.FilesOk s (execGss d len s) :=
  completes_of_checked fun hf u hu => by
    simp only [firstFail_eq_none, List.forall_mem_cons, decide_eq_true_eq] at hf
    obtain ⟨-, hlen, -⟩ := hf
    split at hu
    · cases hu
    next v l hdraw =>
      cases hu
      exact ((h.putVec d ((length_drawSs hdraw).trans_le hlen)).putLfsr l).retire

theorem execGmat_files (d : RegIdx) : Completes State.FilesOk s (execGmat d s) :=
  completes_of_checked fun hf u hu => by
    simp only [firstFail_eq_none, List.forall_mem_cons, Bool.and_eq_true, decide_eq_true_eq] at hf
    obtain ⟨-, ⟨hrows, hcols⟩, -⟩ := hf
    split at hu
    · cases hu
    next A l hdraw =>
      cases hu
      have hA : A.Shape s.job.argA.toNat s.job.argB.toNat := sizes_drawMatrix hdraw
      exact ((h.putMat d (hA.fits hrows hcols)).putLfsr l).retire

theorem execLenc_files (d a c : RegIdx) : Completes State.FilesOk s (execLenc d a c s) :=
  completes_of_checked_ok fun hf => by
    simp only [firstFail_eq_none, List.forall_mem_cons] at hf
    obtain ⟨-, hkeyed, -⟩ := hf
    have hinst := (h.ctx c).instantiated ((h.ctx c).inst_of_keyed hkeyed)
    exact (h.putVec d (length_encrypt_le (h.length_vec_le a) fun i => (hinst.lin_fits i).length)).retire

theorem execLdec_files (d a c : RegIdx) : Completes State.FilesOk s (execLdec d a c s) :=
  completes_of_checked_ok fun hf => by
    simp only [firstFail_eq_none, List.forall_mem_cons] at hf
    obtain ⟨-, hkeyed, -⟩ := hf
    have hinst := (h.ctx c).instantiated ((h.ctx c).inst_of_keyed hkeyed)
    have hrk := hinst.length_rk_le ((h.ctx c).keyScheduled hkeyed) 0
    exact (h.putVec d ((length_decrypt_le _ _ _ _).trans hrk)).retire

theorem execLsub_files (d a c : RegIdx) : Completes State.FilesOk s (execLsub d a c s) :=
  completes_of_checked_ok fun _ => (h.putVec d ((length_substitute _ _).trans_le (h.length_vec_le a))).retire

theorem execLisub_files (d a c : RegIdx) : Completes State.FilesOk s (execLisub d a c s) :=
  completes_of_checked_ok fun _ => (h.putVec d ((length_invSubstitute _ _).trans_le (h.length_vec_le a))).retire

theorem execLxrd_files (d c : RegIdx) (sel : LxrdSel) : Completes State.FilesOk s (execLxrd d c sel s) :=
  completes_of_checked fun hf u hu => by
    simp only [lxrdChecks, firstFail_eq_none, List.forall_mem_cons] at hf
    obtain ⟨-, hinst, hkeyed, -⟩ := hf
    have hx := (h.ctx c).instantiated hinst
    cases sel <;> cases hu
    case lin => exact (h.putMat d (hx.lin_fits _)).retire
    case invlin => exact (h.putMat d (hx.invlin_fits _)).retire
    case keym => exact (h.putMat d (hx.km_fits _)).retire
    case rc => exact (h.putVec d (hx.length_rc_le _)).retire
    case rk => exact (h.putVec d (hx.length_rk_le ((h.ctx c).keyScheduled hkeyed) _)).retire
    case mkey => exact (h.putVec d (((h.ctx c).keyScheduled hkeyed).mkey.trans_le hx.ks_le)).retire

theorem execShare_files (d a : RegIdx) (k : Imm) : Completes State.FilesOk s (execShare d a k s) :=
  completes_of_checked fun hf u hu => by
    simp only [shareChecks, firstFail_eq_none, List.forall_mem_cons, okParties_iff] at hf
    obtain ⟨-, ⟨hn, hpmax⟩, -⟩ := hf
    split at hu
    · cases hu
    · cases hu
      exact (h.putShare d hpmax (length_shareOf_take_le hn _ _)).retire

theorem execRecon_files (d a : RegIdx) (k : Imm) : Completes State.FilesOk s (execRecon d a k s) :=
  completes_of_checked_ok fun hf => by
    simp only [firstFail_eq_none, List.forall_mem_cons, decide_eq_true_eq] at hf
    obtain ⟨-, -, hk, -⟩ := hf
    exact (h.putVecBit d _ hk).retire

theorem execTgen_files (d : RegIdx) : Completes State.FilesOk s (execTgen d s) :=
  completes_of_checked fun hf u hu => by
    simp only [tgenChecks, firstFail_eq_none, List.forall_mem_cons, okParties_iff] at hf
    obtain ⟨-, ⟨hn, hpmax⟩, -⟩ := hf
    split at hu
    · cases hu
    · cases hu
      exact (h.putTriple d (tripleOf_fits hn hpmax _)).retire

/-- The record that a gate appends keeps every view as long as VPTR (rules R21, R129). -/
theorem appendViews_files {n : Nat} {x y a b : Vec} (hx : x.length = n) (hy : y.length = n) (ha : a.length = n)
    (hb : b.length = n) (c : Vec) (hcap : s.vptr + 5 + 2 * n ≤ s.cfg.vcap) : (s.appendViews n x y a b c).FilesOk := by
  refine h.putViews ⟨by simp [h.views.1], fun w hw => ?_⟩ hcap
  obtain ⟨⟨v, q⟩, hv, rfl⟩ := List.mem_map.mp hw
  have hlen : v.length = s.vptr := h.views.2 v (List.fst_mem_of_mem_zipIdx hv)
  have hrecord := length_viewRecord hx hy ha hb c q
  dsimp only
  split <;> simp only [List.length_append, List.length_replicate] <;> omega

theorem tripleGate_files {d x y t : RegIdx} (hf : firstFail (tripleGateChecks d x y t s) = none) {z : Vec}
    (hz : z.length ≤ s.partyCount) : (tripleGate d x y t z s).FilesOk := by
  simp only [tripleGateChecks, firstFail_eq_none, List.forall_mem_cons, okParties_iff, decide_eq_true_eq] at hf
  obtain ⟨-, ⟨-, hpmax⟩, -, -, -, hcap, -⟩ := hf
  have hviews := appendViews_files h (length_share (s := s) s.partyCount x) (length_share (s := s) s.partyCount y)
    (length_valueOf s.partyCount (s.treg t).a) (length_valueOf s.partyCount (s.treg t).b)
    (s.tripleC s.partyCount t) hcap
  exact (hviews.useTriple t).putShare d hpmax hz

theorem execGateAnd_files (d x y t : RegIdx) : Completes State.FilesOk s (execGateAnd d x y t s) :=
  completes_of_checked_ok fun hf =>
    (tripleGate_files h hf ((length_gateAndOf_le _ _ _ _ _).trans_eq (length_valueOf _ _))).retire

theorem execGateOr_files (d x y t : RegIdx) : Completes State.FilesOk s (execGateOr d x y t s) :=
  completes_of_checked_ok fun hf =>
    (tripleGate_files h hf ((length_gateOrOf_le _ _ _ _ _).trans_eq (length_valueOf _ _))).retire

theorem execGateXor_files (d x y : RegIdx) : Completes State.FilesOk s (execGateXor d x y s) :=
  completes_of_checked_ok fun hf => by
    simp only [firstFail_eq_none, List.forall_mem_cons, okParties_iff] at hf
    obtain ⟨-, ⟨-, hpmax⟩, -⟩ := hf
    exact (h.putShare d hpmax (by simp)).retire

theorem execGateNot_files (d x : RegIdx) : Completes State.FilesOk s (execGateNot d x s) :=
  completes_of_checked_ok fun hf => by
    simp only [firstFail_eq_none, List.forall_mem_cons, okParties_iff] at hf
    obtain ⟨-, ⟨-, hpmax⟩, -⟩ := hf
    exact (h.putShare d hpmax (by simp)).retire

theorem execGateId_files (d x : RegIdx) : Completes State.FilesOk s (execGateId d x s) :=
  completes_of_checked_ok fun hf => by
    simp only [firstFail_eq_none, List.forall_mem_cons, okParties_iff] at hf
    obtain ⟨-, ⟨-, hpmax⟩, -⟩ := hf
    exact (h.putShare d hpmax (by simp)).retire

theorem execVclr_files : Completes State.FilesOk s (execVclr s) :=
  completes_ok (h.putViews (.replicate rfl) (Nat.zero_le _)).retire

theorem execNop_files : Completes State.FilesOk s (execNop s) := completes_ok h.retire

/-! The two commands that write a context need its sampled parameters to be the live ones (rule R49). -/

variable (hpar : ∀ c, s.params c = (s.ctx c).par)
include hpar

theorem execLinst_files (c : RegIdx) : Completes State.FilesOk s (execLinst c s) :=
  completes_of_checked fun hf u hu => by
    simp only [firstFail_eq_none, List.forall_mem_cons] at hf
    obtain ⟨-, hvalid, -⟩ := hf
    split at hu
    · cases hu
    next x rej l hinst =>
      cases hu
      have hspec := instantiate_spec hinst
      rw [← hpar c, hspec.with_par]
      exact (((h.putCtx c (hspec.shape hvalid)).putLfsr l).putRetries _).retire

theorem execLkey_files (c k : RegIdx) : Completes State.FilesOk s (execLkey c k s) :=
  completes_of_checked_ok fun hf => by
    simp only [firstFail_eq_none, List.forall_mem_cons, decide_eq_true_eq, State.ks, hpar c] at hf
    obtain ⟨-, hinst, hk, -⟩ := hf
    have hx := ((h.ctx c).instantiated hinst).setKey_shape hinst hk
    rw [State.rounds, hpar c]
    exact (h.putCtx c hx).retire

/-- Every command keeps the sizes. -/
theorem exec_files (i : Instr) : Completes State.FilesOk s (exec i s) := by
  cases i with
  | nop => exact execNop_files h
  | vxor d a b => exact execVxor_files h d a b
  | vand d a b => exact execVand_files h d a b
  | mvmul d a b => exact execMvmul_files h d a b
  | rank a => exact execRank_files h a
  | minv d a => exact execMinv_files h d a
  | graw d len => exact execGraw_files h d len
  | gss d len => exact execGss_files h d len
  | gmat d => exact execGmat_files h d
  | linst c => exact execLinst_files h hpar c
  | lkey c k => exact execLkey_files h hpar c k
  | lenc d a c => exact execLenc_files h d a c
  | ldec d a c => exact execLdec_files h d a c
  | lsub d a c => exact execLsub_files h d a c
  | lisub d a c => exact execLisub_files h d a c
  | lxrd d c sel => exact execLxrd_files h d c sel
  | share d a k => exact execShare_files h d a k
  | recon d a k => exact execRecon_files h d a k
  | tgen d => exact execTgen_files h d
  | gateAnd d x y t => exact execGateAnd_files h d x y t
  | gateOr d x y t => exact execGateOr_files h d x y t
  | gateXor d x y => exact execGateXor_files h d x y
  | gateNot d x => exact execGateNot_files h d x
  | gateId d x => exact execGateId_files h d x
  | vclr => exact execVclr_files h

end

/-! ### The sizes after a host write -/

theorem writeWdata_files (h : s.FilesOk) (x : Word) : (s.writeWdata x).FilesOk := by
  rcases writeWdata_cases s x with hw | ⟨i, -, -, hw⟩ | ⟨i, -, -, -, hw⟩ | ⟨i, -, -, hw⟩ <;> rw [hw]
  · exact h
  · have hr := h.v.getD i (VReg.empty_fits _)
    exact { h with v := h.v.set i ⟨hr.1, toNat_cutTo_lt _⟩ }
  · obtain ⟨hrows, hcols, hlen, hbits⟩ := h.m.getD i (MReg.empty_fits _)
    obtain ⟨hlen', hbits'⟩ := FileOk.set (Q := fun x : Store => x.toNat < 2 ^ s.cfg.dmax) ⟨hlen, hbits⟩ s.winRow
      (toNat_cutTo_lt (putWord ((s.m.getD i (.empty s.cfg)).storeRow s.winRow) s.winCol x))
    exact { h with m := h.m.set i ⟨hrows, hcols, hlen', hbits'⟩ }
  · have hr := h.sh.getD i (SReg.empty_fits _)
    exact { h with sh := h.sh.set i ⟨hr.1, toNat_partyBitsOf_lt (toNat_cutTo_lt _)⟩ }

theorem writeWlen_files (h : s.FilesOk) (x : Word) : (s.writeWlen x).FilesOk := by
  simp only [State.writeWlen]
  split
  case h_1 i _ =>
    split
    · next hlen => exact { h with v := h.v.set i ⟨hlen, (h.v.getD i (VReg.empty_fits _)).2⟩ }
    · exact h
  case h_2 i _ =>
    split
    · next hdims => exact { h with m := h.m.set i ⟨hdims.1, hdims.2, (h.m.getD i (MReg.empty_fits _)).2.2⟩ }
    · exact h
  case h_3 i _ =>
    split
    · next hcnt => exact { h with sh := h.sh.set i ⟨hcnt, (h.sh.getD i (SReg.empty_fits _)).2⟩ }
    · exact h
  case h_4 | h_5 | h_6 => exact h

theorem writeCxp_files (h : s.FilesOk) (c : Nat) (par : CxParams) : (s.writeCxp c par).FilesOk :=
  { h with cx := h.cx.set c (Ctx.shape_of_cleared _ rfl rfl) }

/-! ### Every step -/

theorem Quiet.files (hq : Quiet s t) (h : s.FilesOk) : t.FilesOk := by
  rw [hq.eq]
  exact { h with }

theorem Quiet.jobOk (hq : Quiet s t) (h : s.jobOk) : t.jobOk := by
  intro j hj
  obtain ⟨i, hi, hcxp, herr⟩ := hq.job j hj
  obtain ⟨herr', hcxp'⟩ := h i hi
  have hcx : t.cx = s.cx := by rw [hq.eq]
  exact ⟨herr herr', by rw [hcxp, hcxp', hcx]⟩

/-- A window write changes no more than the files V, M and S (rules R45, R46). -/
theorem writeWdata_eq (s : State) (x : Word) : s.writeWdata x =
    { s with v := (s.writeWdata x).v, m := (s.writeWdata x).m, sh := (s.writeWdata x).sh } := by
  rcases writeWdata_cases s x with hw | ⟨i, -, -, hw⟩ | ⟨i, -, -, -, hw⟩ | ⟨i, -, -, hw⟩ <;> rw [hw]

theorem writeWlen_eq (s : State) (x : Word) : s.writeWlen x =
    { s with v := (s.writeWlen x).v, m := (s.writeWlen x).m, sh := (s.writeWlen x).sh } := by
  simp only [State.writeWlen]
  split
  case h_1 | h_2 | h_3 => split <;> rfl
  case h_4 | h_5 | h_6 => rfl

theorem Quiet.shape (hq : Quiet s t) (h : s.Shape) : t.Shape := by
  obtain ⟨hfiles, hjob⟩ := State.shape_iff.mp h
  exact State.shape_iff.mpr ⟨hq.files hfiles, hq.jobOk hjob⟩

/-- A command in flight reads the live parameters, so its completion keeps the sizes, and a retired command is in flight no
more. -/
theorem exec_shape {j : Job} (i : Instr) (hj : s.phase = .running j) (h : s.Shape) :
    Completes State.Shape s (exec i s) := by
  obtain ⟨hfiles, hjob⟩ := State.shape_iff.mp h
  exact (exec_files hfiles (params_eq_par hj hjob) i).mono fun u hu => State.shape_iff.mpr ⟨hu, nofun⟩

/-- Everything that a step can be keeps the sizes. -/
theorem shape_stepInvariant : StepInvariant State.Shape where
  quiet hq hs := hq.shape hs
  hardReset hs := by
    have hreset := State.FilesOk.resetOf (State.shape_iff.mp hs).1.cfg
    exact State.shape_iff.mpr ⟨{ hreset with }, nofun⟩
  accept w herr hs := by
    refine State.shape_iff.mpr ⟨{ (State.shape_iff.mp hs).1 with }, fun j hj => ?_⟩
    cases hj
    exact ⟨herr, rfl⟩
  writeWdata x hidle hs := by
    refine State.shape_iff.mpr ⟨writeWdata_files (State.shape_iff.mp hs).1 x, State.jobOk_of_not_running ?_⟩
    rw [writeWdata_eq, hidle]
    rfl
  writeWlen x hidle hs := by
    refine State.shape_iff.mpr ⟨writeWlen_files (State.shape_iff.mp hs).1 x, State.jobOk_of_not_running ?_⟩
    rw [writeWlen_eq, hidle]
    rfl
  writeCxp c par hidle hs := by
    refine State.shape_iff.mpr ⟨writeCxp_files (State.shape_iff.mp hs).1 c par, State.jobOk_of_not_running ?_⟩
    rw [writeCxp_phase, hidle]
    rfl
  exec i hj hs h := (exec_shape i hj hs).of_next Quiet.shape hs h

/-- Settles O56: the sizes are a step invariant. -/
theorem stepKeepsShape : Obligations.StepKeepsShape := fun _ _ hs h => shape_stepInvariant.step hs h

end Sys2Proof.Machine
end

section
/-! PROOFS. Every step keeps the ranks and inverses of the cipher contexts (rule R35 item 6) and a generator's register that is
not all zeros (rule R35 item 7). -/

namespace Sys2Proof.Machine

variable {s t : State}

/-! ### The ranks of the contexts -/

/-- A context without INST asks for no rank. -/
theorem Ctx.ranks_of_not_inst {x : Ctx} (h : x.inst = false) : x.Ranks := by
  intro hinst
  rw [h] at hinst
  cases hinst

theorem InstantiatedFrom.ranks {y : CxParams} {x : Ctx} (h : InstantiatedFrom y x) : x.Ranks := by
  obtain ⟨rfl, -, -, -, -, -, hinvlin, hlin, hkm⟩ := h
  exact fun _ => ⟨hlin, hinvlin, hkm⟩

theorem State.Ranks.ctx (h : s.Ranks) (c : RegIdx) : (s.ctx c).Ranks :=
  FileOk.getD ⟨rfl, h⟩ _ (Ctx.ranks_of_not_inst rfl)

theorem State.Ranks.setCtx (h : s.Ranks) (c : Nat) {x : Ctx} (hx : x.Ranks) : ∀ y ∈ s.cx.set c x, y.Ranks :=
  (FileOk.set ⟨rfl, h⟩ c hx).2

/-- LINST writes a context of the ranks it was drawn for, LKEY keeps the matrices, and no other command writes a context. -/
theorem exec_ranks (i : Instr) (hpar : ∀ c, s.params c = (s.ctx c).par) (h : s.Ranks) :
    Completes State.Ranks s (exec i s) := by
  cases i with
  | linst c =>
    refine completes_of_checked fun _ u hu => ?_
    split at hu
    · cases hu
    next x rej l hinst =>
      cases hu
      have hspec := instantiate_spec hinst
      rw [← hpar c, hspec.with_par]
      exact h.setCtx _ hspec.ranks
  | lkey c k =>
    have hset : (setKey (s.rounds c) (s.vec k) (s.ctx c)).Ranks := h.ctx c
    exact completes_of_checked_ok fun _ => h.setCtx _ hset
  | nop | vclr => exact completes_ok h
  | vxor | vand | mvmul | rank | minv | graw | lenc | ldec | lsub | lisub | recon
  | gateAnd | gateOr | gateXor | gateNot | gateId => exact completes_of_checked_ok fun _ => h
  | gss | gmat | share | tgen =>
    refine completes_of_checked fun _ u hu => ?_
    split at hu <;> cases hu
    exact h
  | lxrd d c sel =>
    refine completes_of_checked fun _ u hu => ?_
    cases sel <;> cases hu <;> exact h

theorem Quiet.ranks (hq : Quiet s t) (h : s.Ranks) : t.Ranks := by
  rw [hq.eq]
  exact h

/-- The ranks are kept together with the sizes, which make the sampled parameters of a command the live ones. -/
theorem ranks_stepInvariant : StepInvariant fun s => s.Shape ∧ s.Ranks where
  quiet hq hs := ⟨hq.shape hs.1, hq.ranks hs.2⟩
  hardReset hs := ⟨shape_stepInvariant.hardReset hs.1, fun x hx => by
    rw [List.eq_of_mem_replicate hx]
    exact Ctx.ranks_of_not_inst rfl⟩
  accept w herr hs := ⟨shape_stepInvariant.accept w herr hs.1, hs.2⟩
  writeWdata x hidle hs := ⟨shape_stepInvariant.writeWdata x hidle hs.1, by rw [writeWdata_eq]; exact hs.2⟩
  writeWlen x hidle hs := ⟨shape_stepInvariant.writeWlen x hidle hs.1, by rw [writeWlen_eq]; exact hs.2⟩
  writeCxp c par hidle hs :=
    ⟨shape_stepInvariant.writeCxp c par hidle hs.1, hs.2.setCtx c (Ctx.ranks_of_not_inst rfl)⟩
  exec i hj hs h := by
    have hpar := params_eq_par hj (State.shape_iff.mp hs.1).2
    exact ⟨shape_stepInvariant.exec i hj hs.1 h, (exec_ranks i hpar hs.2).of_next Quiet.ranks hs.2 h⟩

/-- Settles O57: sizes and ranks together are a step invariant. -/
theorem stepKeepsRanks : Obligations.StepKeepsRanks :=
  fun _ _ hshape hranks h => (ranks_stepInvariant.step ⟨hshape, hranks⟩ h).2

/-! ### The generator's register -/

theorem drawSs_ne_zero {k : Nat} {l l' : Lfsr} {v : Vec} (hl : l.s ≠ 0) (h : drawSs k l = some (v, l')) : l'.s ≠ 0 := by
  obtain ⟨v', l'', h', -, hz⟩ := drawSs_ends k hl
  rw [h] at h'
  cases h'
  exact hz

theorem drawVectors_ne_zero {L k : Nat} {l l' : Lfsr} {vs : List Vec} (hl : l.s ≠ 0)
    (h : drawVectors L k l = some (vs, l')) : l'.s ≠ 0 := by
  obtain ⟨vs', l'', h', -, -, hz⟩ := drawVectors_ends L k hl
  rw [h] at h'
  cases h'
  exact hz

theorem drawMatrix_ne_zero {R C : Nat} {l l' : Lfsr} {A : Mat} (hl : l.s ≠ 0) (h : drawMatrix R C l = some (A, l')) :
    l'.s ≠ 0 := by
  obtain ⟨A', l'', h', -, -, -, -, hz⟩ := drawMatrix_ends R C hl
  rw [h] at h'
  cases h'
  exact hz

/-- The retry loop of rule R98 leaves the register not all zeros, however many candidates it rejects. -/
theorem drawUntil_ne_zero {keep : Nat → Bool} {R C fuel rej rej' : Nat} {l l' : Lfsr} {A : Mat} (hl : l.s ≠ 0)
    (h : drawUntil keep R C fuel rej l = some (A, rej', l')) : l'.s ≠ 0 := by
  induction fuel generalizing rej l with
  | zero => cases h
  | succ fuel ih =>
    simp only [drawUntil] at h
    split at h
    · cases h
    next hdraw =>
      have hl1 := drawMatrix_ne_zero hl hdraw
      split at h
      · cases h
        exact hl1
      · exact ih hl1 h

theorem drawAccepted_ne_zero {keep : Nat → Bool} {R C k rej rej' : Nat} {l l' : Lfsr} {As : List Mat} (hl : l.s ≠ 0)
    (h : drawAccepted keep R C k rej l = some (As, rej', l')) : l'.s ≠ 0 := by
  induction k generalizing rej l As rej' l' with
  | zero =>
    cases h
    exact hl
  | succ k ih =>
    simp only [drawAccepted] at h
    split at h
    · cases h
    next huntil =>
      split at h
      · cases h
      next hrest =>
        cases h
        exact ih (drawUntil_ne_zero hl huntil) hrest

theorem instantiate_ne_zero {y : CxParams} {l l' : Lfsr} {x : Ctx} {rej : Nat} (hl : l.s ≠ 0)
    (h : instantiate y l = some (x, rej, l')) : l'.s ≠ 0 := by
  simp only [instantiate] at h
  split at h
  · cases h
  next hlin =>
    split at h
    · cases h
    next hrc =>
      split at h
      · cases h
      next hkm =>
        cases h
        exact drawAccepted_ne_zero (drawVectors_ne_zero (drawAccepted_ne_zero hl hlin) hrc) hkm

/-- The four commands that draw from the generator leave its register not all zeros, and no other command writes it. -/
theorem exec_generatorAlive (i : Instr) (h : s.GeneratorAlive) : Completes State.GeneratorAlive s (exec i s) := by
  cases i with
  | graw d len => exact completes_of_checked_ok fun _ => (drawRaw_spec len.toNat h).2
  | gss d len =>
    refine completes_of_checked fun _ u hu => ?_
    split at hu <;> cases hu
    next hdraw => exact drawSs_ne_zero h hdraw
  | gmat d =>
    refine completes_of_checked fun _ u hu => ?_
    split at hu <;> cases hu
    next hdraw => exact drawMatrix_ne_zero h hdraw
  | linst c =>
    refine completes_of_checked fun _ u hu => ?_
    split at hu <;> cases hu
    next hinst => exact instantiate_ne_zero h hinst
  | nop | vclr => exact completes_ok h
  | vxor | vand | mvmul | rank | minv | lkey | lenc | ldec | lsub | lisub | recon
  | gateAnd | gateOr | gateXor | gateNot | gateId => exact completes_of_checked_ok fun _ => h
  | share | tgen =>
    refine completes_of_checked fun _ u hu => ?_
    split at hu <;> cases hu
    exact h
  | lxrd d c sel =>
    refine completes_of_checked fun _ u hu => ?_
    cases sel <;> cases hu <;> exact h

theorem Quiet.generatorAlive (hq : Quiet s t) (h : s.GeneratorAlive) : t.GeneratorAlive := by
  rw [hq.eq]
  exact h

/-- Only a draw and a reset write the generator. -/
theorem generatorAlive_stepInvariant : StepInvariant State.GeneratorAlive where
  quiet := Quiet.generatorAlive
  hardReset _ := Lfsr.reset_alive
  accept _ _ hs := hs
  writeWdata x _ hs := by rw [writeWdata_eq]; exact hs
  writeWlen x _ hs := by rw [writeWlen_eq]; exact hs
  writeCxp _ _ _ hs := hs
  exec i _ hs h := (exec_generatorAlive i hs).of_next Quiet.generatorAlive hs h

/-- Settles O58: a register that is not all zeros is a step invariant. -/
theorem stepKeepsGeneratorAlive : Obligations.StepKeepsGeneratorAlive :=
  fun _ _ hs h => generatorAlive_stepInvariant.step hs h

end Sys2Proof.Machine
end

section
/-! PROOFS. The host's accesses (rules R27 to R31, R38 to R41): which register stands at an offset, what a register word holds
field by field, and the registers that a host write changes. -/

namespace Sys2Proof.Machine

variable {s t : State} {p : Params}

/-! ### The register map (rule R27) -/

theorem mem_registerMap_of_lookup {off : Nat} {r : HostReg} (h : registerMap.lookup off = some r) :
    (off, r) ∈ registerMap := by
  obtain ⟨l₁, l₂, heq, -⟩ := List.lookup_eq_some_iff.mp h
  rw [heq]
  exact List.mem_append_right _ List.mem_cons_self

/-- CTRL stands at one offset alone. -/
theorem eq_of_hostReg_ctrl {off : Nat} (h : hostReg p off = some .ctrl) : off = 0x014 := by
  unfold hostReg at h
  split at h
  · simpa [registerMap] using mem_registerMap_of_lookup h
  · dsimp only at h
    split at h
    · split at h <;> cases h
    · cases h

theorem hostReg_cxp0 {c : Nat} (hc : c < p.nctx) : hostReg p (0x100 + 16 * c) = some (.cxp0 c) := by
  have hoff : ¬ 0x100 + 16 * c < 0x100 := by omega
  have hdiv : (0x100 + 16 * c - 0x100) / 16 = c := by omega
  have hmod : (0x100 + 16 * c - 0x100) % 16 = 0 := by omega
  simp only [hostReg, hoff, if_false, hdiv, hc, if_true, hmod]

theorem hostReg_cxp1 {c : Nat} (hc : c < p.nctx) : hostReg p (0x104 + 16 * c) = some (.cxp1 c) := by
  have hoff : ¬ 0x104 + 16 * c < 0x100 := by omega
  have hdiv : (0x104 + 16 * c - 0x100) / 16 = c := by omega
  have hmod : (0x104 + 16 * c - 0x100) % 16 = 4 := by omega
  simp only [hostReg, hoff, if_false, hdiv, hc, if_true, hmod]

theorem hostReg_cxst {c : Nat} (hc : c < p.nctx) : hostReg p (0x108 + 16 * c) = some (.cxst c) := by
  have hoff : ¬ 0x108 + 16 * c < 0x100 := by omega
  have hdiv : (0x108 + 16 * c - 0x100) / 16 = c := by omega
  have hmod : (0x108 + 16 * c - 0x100) % 16 = 8 := by omega
  simp only [hostReg, hoff, if_false, hdiv, hc, if_true, hmod]

theorem nctx_le (h : p.valid) : p.nctx ≤ 32 := by
  obtain ⟨-, -, -, -, -, -, ⟨-, hnctx⟩, -⟩ := h
  exact hnctx

/-- Outside the map and the registers of the existing contexts there is no register (rule R39). -/
theorem hostReg_eq_none {off : Nat} (h4 : off % 4 = 0) (hmap : ∀ q ∈ registerMap, off ≠ q.1)
    (hcx : ¬ (0x100 ≤ off ∧ (off - 0x100) / 16 < p.nctx ∧ off % 16 ≠ 12)) : hostReg p off = none := by
  unfold hostReg
  split
  · exact List.lookup_eq_none_iff.mpr fun q hq => by simpa using hmap q hq
  · dsimp only
    split
    · have hmod : (off - 0x100) % 16 = 12 := by omega
      rw [hmod]
      rfl
    · rfl

/-! ### Accesses -/

/-- A read of a register that is specified outside the reset-clearing phase returns the register's value and no other. -/
theorem readsAs_iff {off n : Nat} {r : HostReg} (hr : hostReg s.cfg off = some r) (h4 : off % 4 = 0) (hoff : off < 0x1000)
    (hp : s.phase ≠ .clearing) (hu : r.unspecifiedWhileRunning = false) :
    readsAs s off n ↔ (s.regValue r).toNat = n := by
  rw [readsAs, memRead_specified hr h4 hoff hp hu]
  simp

/-- With BUSY = 0 every register's read returns its value. -/
theorem readsBits_idle {off : Nat} {r : HostReg} {f : Nat → Bool} (hr : hostReg s.cfg off = some r) (h4 : off % 4 = 0)
    (hoff : off < 0x1000) (hp : s.phase = .idle) (h : ∀ k, k < 32 → (s.regValue r).getLsbD k = f k) : readsBits s off f :=
  ⟨_, memRead_idle hr h4 hoff hp, h⟩

theorem readsAs_idle {off : Nat} {r : HostReg} (hr : hostReg s.cfg off = some r) (h4 : off % 4 = 0)
    (hoff : off < 0x1000) (hp : s.phase = .idle) : readsAs s off (s.regValue r).toNat :=
  ⟨_, memRead_idle hr h4 hoff hp, rfl⟩

theorem readsAs_absent {off : Nat} (hr : hostReg s.cfg off = none) (h4 : off % 4 = 0) (hoff : off < 0x1000) :
    readsAs s off 0 :=
  ⟨s.putRdata 0, by simp [State.memRead, accessForm, h4, hoff, hr, State.readReg], rfl⟩

/-- STATUS is read in every phase (rules R50, R51). -/
theorem memRead_status (s : State) : s.memRead 0x018 4 = .next (s.putRdata s.statusWord) := by
  have hr : hostReg s.cfg 0x018 = some .status := rfl
  cases hp : s.phase <;>
    simp [State.memRead, accessForm, hr, State.readReg, hp, HostReg.readableWhileClearing,
      HostReg.unspecifiedWhileRunning, State.regValue]

/-- CTRL and STATUS are written outside the reset-clearing phase, a command in flight or not (rule R50). -/
theorem memWrite_ctrl (x : Word) (hp : s.phase ≠ .clearing) : s.memWrite 0x014 4 x = .next (s.writeCtrl x) := by
  have hr : hostReg s.cfg 0x014 = some .ctrl := rfl
  cases h : s.phase <;> simp_all [State.memWrite, accessForm, State.writeHost, State.writeReg]

theorem memWrite_status (x : Word) (hp : s.phase ≠ .clearing) : s.memWrite 0x018 4 x = .next (s.writeStatus x) := by
  have hr : hostReg s.cfg 0x018 = some .status := rfl
  cases h : s.phase <;> simp_all [State.memWrite, accessForm, State.writeHost, State.writeReg]

/-! ### Register words -/

theorem getLsbD_flagBit {k : Nat} (hk : k < 32) (b : Bool) (i : Nat) :
    (flagBit k b).getLsbD i = (b && decide (i = k)) := by
  cases b
  · simp [flagBit]
  · simp only [flagBit, if_true, BitVec.getLsbD_twoPow, hk, decide_true, Bool.true_and, eq_comm]

/-- A flag is a one-bit number. -/
theorem flagBit_eq_numberAt (k : Nat) (b : Bool) : flagBit k b = numberAt k b.toNat := by
  cases b
  · simp [flagBit, numberAt]
  · simp [flagBit, numberAt, BitVec.twoPow]

theorem toNat_numberAt {lo y : Nat} (hy : y * 2 ^ lo < 2 ^ 32) : (numberAt lo y).toNat = y * 2 ^ lo := by
  have hy' : y < 2 ^ 32 := (Nat.le_mul_of_pos_right y (Nat.two_pow_pos lo)).trans_lt hy
  rw [numberAt, BitVec.toNat_shiftLeft, BitVec.toNat_ofNat, Nat.mod_eq_of_lt hy', Nat.shiftLeft_eq,
    Nat.mod_eq_of_lt hy]

/-- A field above the bits in use adds its number at its place. -/
theorem toNat_or_numberAt {w : Word} {lo y : Nat} (hw : w.toNat < 2 ^ lo) (hy : y * 2 ^ lo < 2 ^ 32) :
    (w ||| numberAt lo y).toNat = w.toNat + y * 2 ^ lo := by
  rw [BitVec.toNat_or, toNat_numberAt hy, Nat.or_comm, ← Nat.shiftLeft_eq, ← Nat.shiftLeft_add_eq_or_of_lt hw,
    Nat.add_comm]

theorem halves_eq (hi lo : Word) : halves hi lo = lo ||| numberAt 16 hi.toNat := by
  rw [halves, numberAt, BitVec.ofNat_toNat, BitVec.setWidth_eq, BitVec.or_comm]

/-- Two numbers of at most 16 bits in the halves of a word. -/
theorem toNat_halves {hi lo : Word} (hhi : hi.toNat < 2 ^ 16) (hlo : lo.toNat < 2 ^ 16) :
    (halves hi lo).toNat = lo.toNat + 2 ^ 16 * hi.toNat := by
  rw [halves_eq, toNat_or_numberAt hlo (by omega), Nat.mul_comm]

/-- The bits of a mask of `n` ones. -/
theorem getLsbD_ones (n k : Nat) : (BitVec.ofNat 32 (2 ^ n - 1)).getLsbD k = (decide (k < 32) && decide (k < n)) := by
  rw [BitVec.getLsbD_ofNat, Nat.testBit_two_pow_sub_one]

/-- A field that is written and read back is the data under the field's mask. -/
theorem setWidth_extractLsb' (x : Word) (lo n : Nat) :
    (x.extractLsb' lo n).setWidth 32 = (x >>> lo) &&& BitVec.ofNat 32 (2 ^ n - 1) := by
  apply BitVec.eq_of_getLsbD_eq
  intro k hk
  simp only [BitVec.getLsbD_setWidth, BitVec.getLsbD_extractLsb', BitVec.getLsbD_and, getLsbD_ones,
    BitVec.getLsbD_ushiftRight, hk, decide_true, Bool.true_and, Bool.and_comm]

theorem halves_extractLsb' (x : Word) :
    halves ((x.extractLsb' 16 11).setWidth 32) ((x.extractLsb' 0 11).setWidth 32) = x &&& 0x07FF07FF := by
  have hmask : (0x07FF07FF : Word) = BitVec.ofNat 32 (2 ^ 11 - 1) <<< 16 ||| BitVec.ofNat 32 (2 ^ 11 - 1) := rfl
  rw [hmask]
  apply BitVec.eq_of_getLsbD_eq
  intro k hk
  simp only [halves, BitVec.getLsbD_or, BitVec.getLsbD_and, BitVec.getLsbD_shiftLeft, BitVec.getLsbD_setWidth,
    BitVec.getLsbD_extractLsb', getLsbD_ones, hk, decide_true, Bool.true_and]
  by_cases h16 : k < 16
  · simp [h16, Bool.and_comm]
  · have h11 : ¬ k < 11 := by omega
    have hadd : 16 + (k - 16) = k := by omega
    have hlt : k - 16 < 32 := by omega
    simp [h16, h11, hadd, hlt, Bool.and_comm]

/-- CTRL reads the three fields that were written (rule R28). -/
theorem ctrlWord_of_fields {x : Word} (h0 : s.ieDone = x.getLsbD 0) (h1 : s.ieErr = x.getLsbD 1)
    (h2 : s.notAll = x.getLsbD 2) : s.ctrlWord = x &&& 0x00000007 := by
  have hmask : (0x00000007 : Word) = BitVec.ofNat 32 (2 ^ 3 - 1) := rfl
  rw [hmask]
  apply BitVec.eq_of_getLsbD_eq
  intro k hk
  simp only [State.ctrlWord, h0, h1, h2, BitVec.getLsbD_or, BitVec.getLsbD_and, getLsbD_ones, hk,
    getLsbD_flagBit (show 0 < 32 by omega), getLsbD_flagBit (show 1 < 32 by omega),
    getLsbD_flagBit (show 2 < 32 by omega)]
  match k with
  | 0 | 1 | 2 => simp
  | k + 3 => simp

/-! ### The statements about writes -/

/-- Settles O44: each register stores its fields, and the field laws say what the read returns. -/
theorem controlRegistersHoldWhatIsWritten : Obligations.ControlRegistersHoldWhatIsWritten := by
  refine ⟨fun s x hp hsrst => ?_, fun s x hp => ⟨?_, ?_, ?_⟩⟩
  · have hw : s.writeCtrl x = { s with ieDone := x.getLsbD 0, ieErr := x.getLsbD 1, notAll := x.getLsbD 2 } := by
      rw [State.writeCtrl, hsrst, if_neg Bool.false_ne_true]
    exact ⟨_, _, (memWrite_ctrl x hp).trans (congrArg _ hw), memRead_specified (r := .ctrl) rfl rfl (by decide) hp rfl, rfl,
      ctrlWord_of_fields rfl rfl rfl⟩
  · exact ⟨_, _, memWrite_idle (r := .arg) x rfl rfl (by decide) hp, memRead_idle (r := .arg) rfl rfl (by decide) hp, rfl,
      halves_extractLsb' x⟩
  · refine ⟨_, _, memWrite_idle (r := .parties) x rfl rfl (by decide) hp,
      memRead_idle (r := .parties) rfl rfl (by decide) hp, rfl, ?_⟩
    exact setWidth_extractLsb' x 0 8
  · exact ⟨_, _, memWrite_idle (r := .wsel) x rfl rfl (by decide) hp, memRead_idle (r := .wsel) rfl rfl (by decide) hp, rfl,
      rfl⟩

/-- Settles O48: a host write stays in its frame or is the soft reset, which CTRL's offset alone reaches. -/
theorem hostCannotWriteProtectedState : Obligations.HostCannotWriteProtectedState := by
  intro s t addr size x h
  unfold State.memWrite at h
  split at h
  · cases h
    rcases writeHost_frame s (hostReg s.cfg addr) x with ⟨hctrl, hsrst, hreset⟩ | hframe
    · exact .inr ⟨eq_of_hostReg_ctrl hctrl, hsrst, hreset⟩
    · left
      rw [hframe.eq]
      exact ⟨rfl, rfl, rfl, rfl, rfl, rfl, rfl⟩
  · cases h

theorem busy_iff : s.busy = true ↔ s.phase ≠ .idle := by
  unfold State.busy
  cases s.phase <;> simp

theorem irq_iff : s.irq = true ↔ (s.ieDone = true ∧ s.done = true) ∨ (s.ieErr = true ∧ s.err ≠ none) := by
  simp [State.irq, Option.isSome_iff_ne_none]

/-- The bits of STATUS (rule R29). -/
theorem getLsbD_statusWord (s : State) (k : Nat) : s.statusWord.getLsbD k =
    ((s.busy && decide (k = 0)) || (s.done && decide (k = 1)) || (s.drop && decide (k = 2)) || (s.irq && decide (k = 3))) := by
  simp only [State.statusWord, BitVec.getLsbD_or, getLsbD_flagBit (show 0 < 32 by omega),
    getLsbD_flagBit (show 1 < 32 by omega), getLsbD_flagBit (show 2 < 32 by omega), getLsbD_flagBit (show 3 < 32 by omega)]

theorem statusWord_bits (s : State) : s.statusWord.getLsbD 0 = s.busy ∧ s.statusWord.getLsbD 1 = s.done ∧
    s.statusWord.getLsbD 2 = s.drop ∧ s.statusWord.getLsbD 3 = s.irq ∧ ∀ k, 4 ≤ k → s.statusWord.getLsbD k = false := by
  simp only [getLsbD_statusWord]
  refine ⟨by simp, by simp, by simp, by simp, fun k hk => ?_⟩
  have hne : k ≠ 0 ∧ k ≠ 1 ∧ k ≠ 2 ∧ k ≠ 3 := by omega
  simp [hne]

/-- Settles O51: the write field by field, the read bit by bit. -/
theorem statusRegister : Obligations.StatusRegister := by
  refine ⟨fun s x hp => ?_, fun s => ?_⟩
  · rw [memWrite_status x hp, State.writeStatus]
    cases x.getLsbD 31 <;> rfl
  · obtain ⟨hbusy, hdone, hdrop, hirq, hrest⟩ := statusWord_bits s
    exact ⟨_, memRead_status s, hbusy ▸ busy_iff, hdone, hdrop, hirq, irq_iff, hrest⟩

/-- What a write of the parameters of context `c` leaves in the context file (rules R25, R166). -/
theorem writeCxp_cx_getElem? (s : State) (par : CxParams) {c : Nat} (hc : c < s.cx.length) :
    (s.writeCxp c par).cx[c]? = some { s.cx.getD c .empty with par := par, inst := false, keyed := false } ∧
    s.cx[c]? = some (s.cx.getD c .empty) ∧ ∀ i, i ≠ c → (s.writeCxp c par).cx[i]? = s.cx[i]? := by
  refine ⟨by simp [hc], by simp [hc], fun i hi => ?_⟩
  rw [writeCxp_cx, List.getElem?_set_ne hi.symm]

/-- Settles O52: the written context takes the fields and loses INST and KEYED. -/
theorem cxpWriteInvalidates : Obligations.CxpWriteInvalidates := by
  intro s c x hs hp hc
  have hfiles := (State.shape_iff.mp hs).1
  have hlen : c < s.cx.length := hfiles.cx.1 ▸ hc
  have hoff : c < 32 := hc.trans_le (nctx_le hfiles.cfg)
  constructor
  · obtain ⟨hnew, hold, hother⟩ := writeCxp_cx_getElem? s
      { (s.cx.getD c .empty).par with bs := x.extractLsb' 0 11, ks := x.extractLsb' 16 11 } hlen
    refine ⟨_, memWrite_idle x (hostReg_cxp0 hc) (by omega) (by omega) hp, rfl, ?_, hother⟩
    rw [hold]
    exact hnew
  · obtain ⟨hnew, hold, hother⟩ := writeCxp_cx_getElem? s
      { (s.cx.getD c .empty).par with m := x.extractLsb' 0 10, r := x.extractLsb' 16 10 } hlen
    refine ⟨_, memWrite_idle x (hostReg_cxp1 hc) (by omega) (by omega) hp, rfl, ?_, hother⟩
    rw [hold]
    exact hnew

end Sys2Proof.Machine
end

section
/-! PROOFS. What a host read returns (rules R27 to R31, R39, R43 to R48): the register words as numbers, the window's selection,
and the window's word of every file and view. -/

namespace Sys2Proof.Machine

variable {s t : State} {p : Params}

/-! ### Register words as numbers -/

section
variable (h : s.cfg.valid)
include h

theorem toNat_cfg0 : (s.regValue .cfg0).toNat = s.cfg.dmax + 2 ^ 16 * s.cfg.pmax := by
  obtain ⟨⟨-, hdmax⟩, ⟨-, hpmax⟩, -⟩ := h
  have h0 : (numberAt 0 s.cfg.dmax).toNat = s.cfg.dmax * 2 ^ 0 := toNat_numberAt (by omega)
  rw [State.regValue, toNat_or_numberAt (by omega) (by omega), h0]
  omega

theorem toNat_cfg1 :
    (s.regValue .cfg1).toNat = s.cfg.nv + 2 ^ 8 * s.cfg.nm + 2 ^ 16 * s.cfg.ns + 2 ^ 24 * s.cfg.nt := by
  obtain ⟨-, -, ⟨-, hnv⟩, ⟨-, hnm⟩, ⟨-, hns⟩, ⟨-, hnt⟩, -⟩ := h
  have h0 : (numberAt 0 s.cfg.nv).toNat = s.cfg.nv * 2 ^ 0 := toNat_numberAt (by omega)
  have h1 := toNat_or_numberAt (w := numberAt 0 s.cfg.nv) (lo := 8) (y := s.cfg.nm) (by omega) (by omega)
  have h2 := toNat_or_numberAt (w := numberAt 0 s.cfg.nv ||| numberAt 8 s.cfg.nm) (lo := 16) (y := s.cfg.ns)
    (by omega) (by omega)
  rw [State.regValue, toNat_or_numberAt (by omega) (by omega)]
  omega

theorem toNat_cfg2 : (s.regValue .cfg2).toNat = s.cfg.nctx + 2 ^ 16 * s.cfg.rmax := by
  obtain ⟨-, -, -, -, -, -, ⟨-, hnctx⟩, hrmax, -⟩ := h
  have h0 : (numberAt 0 s.cfg.nctx).toNat = s.cfg.nctx * 2 ^ 0 := toNat_numberAt (by omega)
  rw [State.regValue, toNat_or_numberAt (by omega) (by omega), h0]
  omega

theorem toNat_cfg3 : (s.regValue .cfg3).toNat = s.cfg.vcap := by
  obtain ⟨-, -, -, -, -, -, -, -, -, hvcap, -⟩ := h
  rw [State.regValue, toNat_numberAt (by omega)]
  omega

end

/-- Two flags as one number. -/
theorem toNat_twoFlags (a b : Bool) : (flagBit 0 a ||| flagBit 1 b).toNat = a.toNat + 2 * b.toNat := by
  cases a <;> cases b <;> rfl

theorem toNat_ctrl (s : State) :
    (s.regValue .ctrl).toNat = s.ieDone.toNat + 2 * s.ieErr.toNat + 4 * s.notAll.toNat := by
  have ha := s.ieDone.toNat_le
  have hb := s.ieErr.toNat_le
  have hc := s.notAll.toNat_le
  have h2 := toNat_twoFlags s.ieDone s.ieErr
  rw [State.regValue, State.ctrlWord, flagBit_eq_numberAt 2, toNat_or_numberAt (by omega) (by omega), h2]
  omega

/-- ERR reads 0 with no error recorded, and the number of the code otherwise (rules R30, R139). -/
theorem toNat_err (s : State) : (s.regValue .err).toNat = errorNumber s.err := by
  have hlt : errorNumber s.err < 8 := by
    rcases s.err with _ | e
    · decide
    · cases e <;> decide
  rw [State.regValue, toNat_numberAt (by omega)]
  omega

theorem errorNumber_eq_iff (e : Option CmdError) (n : Nat) : errorNumber e = n ↔
    (n = 0 ∧ e = none) ∨ (n = 1 ∧ e = some .invalidParameters) ∨ (n = 2 ∧ e = some .singularMatrix) ∨
    (n = 3 ∧ e = some .unsupportedGateOperation) ∨ (n = 4 ∧ e = some .tripleExhausted) ∨
    (n = 5 ∧ e = some .illegalCommand) ∨ (n = 6 ∧ e = some .notReady) ∨ (n = 7 ∧ e = some .viewOverflow) := by
  rcases e with _ | e
  · simp [errorNumber, eq_comm]
  · cases e <;> simp [errorNumber, eq_comm]

/-- Two 11-bit or narrower fields in the halves of a word. -/
theorem toNat_halves_fields {a b : Nat} (ha : a ≤ 16) (hb : b ≤ 16) (hi : BitVec a) (lo : BitVec b) :
    (halves (hi.setWidth 32) (lo.setWidth 32)).toNat = lo.toNat + 2 ^ 16 * hi.toNat := by
  have hhi : hi.toNat < 2 ^ 16 := hi.isLt.trans_le (Nat.pow_le_pow_right (by omega) ha)
  have hlo : lo.toNat < 2 ^ 16 := lo.isLt.trans_le (Nat.pow_le_pow_right (by omega) hb)
  rw [toNat_halves] <;> simp only [BitVec.toNat_setWidth] <;> omega

theorem toNat_vptr (h : s.FilesOk) : (s.regValue .vptr).toNat = s.vptr := by
  obtain ⟨-, -, -, -, -, -, -, -, -, hvcap, -⟩ := h.cfg
  have hvptr := h.vptr
  rw [State.regValue, toNat_numberAt (by omega)]
  omega

/-! ### The window's selection (rules R43, R47) -/

/-- A field of WSEL as a number. -/
theorem toNat_field (x : Word) (lo n : Nat) : (x.extractLsb' lo n).toNat = x.toNat / 2 ^ lo % 2 ^ n := by
  rw [BitVec.extractLsb'_toNat, Nat.shiftRight_eq_div_pow]

theorem winFile_eq (s : State) : s.winFile = s.wsel.toNat / 2 ^ 28 := by
  have hlt := s.wsel.isLt
  rw [State.winFile, toNat_field]
  omega

theorem winReg_eq (s : State) : s.winReg = s.wsel.toNat / 2 ^ 20 % 2 ^ 8 := toNat_field _ _ _

theorem winRow_eq (s : State) : s.winRow = s.wsel.toNat / 2 ^ 8 % 2 ^ 12 := toNat_field _ _ _

theorem winIdx_eq (s : State) : s.winIdx = s.wsel.toNat % 2 ^ 20 := by
  rw [State.winIdx, toNat_field, Nat.pow_zero, Nat.div_one]

theorem winCol_eq (s : State) : s.winCol = s.wsel.toNat % 2 ^ 8 := by
  rw [State.winCol, toNat_field, Nat.pow_zero, Nat.div_one]

/-- WSEL.FILE of a register (rule R43). -/
def WinReg.file : WinReg → Nat
  | .v _ => 0
  | .m _ => 1
  | .s _ => 2
  | .t _ => 3
  | .view _ => 4

/-- WSEL.REG of a register (rule R43). -/
def WinReg.index : WinReg → Nat
  | .v i | .m i | .s i | .t i | .view i => i

/-- The window selects a register exactly when WSEL names its file and its index and the register exists (rule R47). -/
theorem winSel_eq_some_iff {r : WinReg} :
    s.winSel = some r ↔ s.winFile = r.file ∧ s.winReg = r.index ∧ r.inFile s.cfg := by
  constructor
  · intro h
    refine (and_assoc.mp ⟨?_, winSel_inFile h⟩)
    simp only [State.winSel] at h
    split at h
    case h_6 => cases h
    all_goals
      obtain ⟨-, hr⟩ := Option.ite_none_right_eq_some.mp h
      cases hr
      exact ⟨‹_›, rfl⟩
  · rintro ⟨hfile, hreg, hin⟩
    cases r <;> simp only [State.winSel, hfile, hreg, WinReg.file, WinReg.index] <;> exact if_pos hin

/-! ### The window's word (rules R44, R47, R48) -/

section
variable {i k : Nat}

theorem getLsbD_readWdata_v (hsel : s.winSel = some (.v i)) (hidx : s.winIdx < wordsFor s.cfg.dmax) (hk : k < 32) :
    s.readWdata.getLsbD k =
      (decide (32 * s.winIdx + k < s.cfg.dmax) && (s.v.getD i .empty).bits.getLsbD (32 * s.winIdx + k)) := by
  simp only [State.readWdata, hsel, if_pos hidx, getLsbD_wordOf, getLsbD_cutTo, hk, decide_true, Bool.true_and]

theorem getLsbD_readWdata_m (hsel : s.winSel = some (.m i)) (hrow : s.winRow < s.cfg.dmax)
    (hcol : s.winCol < wordsFor s.cfg.dmax) (hk : k < 32) :
    s.readWdata.getLsbD k = (decide (32 * s.winCol + k < s.cfg.dmax) &&
      ((s.m.getD i (.empty s.cfg)).bits.getD s.winRow 0).getLsbD (32 * s.winCol + k)) := by
  simp only [State.readWdata, hsel, if_pos (And.intro hrow hcol), getLsbD_wordOf, getLsbD_cutTo, hk, decide_true,
    Bool.true_and, MReg.storeRow]

/-- Bit `k` of word `w` of a share array as the host sees it (rules R12, R17, R48). -/
theorem getLsbD_partyWord (pmax w : Nat) (b : PartyBits) (hk : k < 32) :
    (wordOf (cutTo (pmax + 1) (partyString b)) w).getLsbD k =
      (decide (32 * w + k ≤ pmax) && decide (32 * w + k ≠ 0) && b.getLsbD (32 * w + k - 1)) := by
  simp only [getLsbD_wordOf, getLsbD_cutTo, getLsbD_partyString, hk, decide_true, Bool.true_and, Nat.lt_succ_iff,
    Bool.and_assoc]

theorem getLsbD_readWdata_s (hsel : s.winSel = some (.s i)) (hidx : s.winIdx < wordsFor (s.cfg.pmax + 1)) (hk : k < 32) :
    s.readWdata.getLsbD k = (decide (32 * s.winIdx + k ≤ s.cfg.pmax) && decide (32 * s.winIdx + k ≠ 0) &&
      (s.sh.getD i .empty).b.getLsbD (32 * s.winIdx + k - 1)) := by
  simp only [State.readWdata, hsel, if_pos hidx]
  exact getLsbD_partyWord _ _ _ hk

theorem component_eq_some_iff {x : TReg} {c : Nat} {b : PartyBits} :
    x.component c = some b ↔ (c = 0 ∧ b = x.a) ∨ (c = 1 ∧ b = x.b) ∨ (c = 2 ∧ b = x.c) := by
  match c with
  | 0 | 1 | 2 | c + 3 => simp [TReg.component, eq_comm]

theorem component_eq_none {x : TReg} {c : Nat} (h : 3 ≤ c) : x.component c = none := by
  match c with
  | c + 3 => rfl

theorem getLsbD_readWdata_t {bits : PartyBits} (hsel : s.winSel = some (.t i))
    (hcomp : (s.tr.getD i .empty).component s.winRow = some bits) (hcol : s.winCol < wordsFor (s.cfg.pmax + 1))
    (hk : k < 32) :
    s.readWdata.getLsbD k = (decide (32 * s.winCol + k ≤ s.cfg.pmax) && decide (32 * s.winCol + k ≠ 0) &&
      bits.getLsbD (32 * s.winCol + k - 1)) := by
  simp only [State.readWdata, hsel, hcomp, if_pos hcol]
  exact getLsbD_partyWord _ _ _ hk

theorem getLsbD_readWdata_view (hsel : s.winSel = some (.view i)) (hidx : s.winIdx < wordsFor s.cfg.vcap) (hk : k < 32) :
    s.readWdata.getLsbD k = bitAt (s.views.getD (i - 1) []) (32 * s.winIdx + k) := by
  simp only [State.readWdata, hsel, if_pos hidx]
  exact getLsbD_viewWord _ _ hk

end

theorem readWdata_of_noWindowWord (h : s.noWindowWord) : s.readWdata = 0 := by
  rcases h with hsel | ⟨i, hsel, hw⟩ | ⟨i, hsel, hw⟩ | ⟨i, hsel, hw⟩ | ⟨i, hsel, hw⟩ | ⟨q, hsel, hw⟩ <;>
    simp only [State.readWdata, hsel]
  · exact if_neg (by omega)
  · exact if_neg (by omega)
  · exact if_neg (by omega)
  · rcases hw with hrow | hcol
    · rw [component_eq_none hrow]
    · split
      · rfl
      · exact if_neg (by omega)
  · exact if_neg (by omega)

/-! ### The statements about reads -/

/-- LFSR2 holds the register's last 16 bits and INIT (rule R23). -/
theorem getLsbD_lfsr2 (s : State) {k : Nat} (hk : k < 32) : (s.regValue .lfsr2).getLsbD k =
    ((decide (k < 16) && s.lfsr.s.getLsbD (64 + k)) || (decide (k = 31) && s.lfsr.init)) := by
  simp only [State.regValue, BitVec.getLsbD_or, BitVec.getLsbD_setWidth, BitVec.getLsbD_extractLsb',
    getLsbD_flagBit (show 31 < 32 by omega), hk, decide_true, Bool.true_and, Bool.and_comm]

/-- The three registers of an existing context (rule R25). -/
theorem contextReads (hs : s.FilesOk) (hp : s.phase ≠ .clearing) {c : Nat} {x : Ctx} (hx : s.cx[c]? = some x) :
    readsAs s (0x100 + 16 * c) (x.par.bs.toNat + 2 ^ 16 * x.par.ks.toNat) ∧
    readsAs s (0x104 + 16 * c) (x.par.m.toNat + 2 ^ 16 * x.par.r.toNat) ∧
    readsAs s (0x108 + 16 * c) (x.inst.toNat + 2 * x.keyed.toNat) := by
  obtain ⟨hlen, -⟩ := List.getElem?_eq_some_iff.mp hx
  have hc : c < s.cfg.nctx := hs.cx.1 ▸ hlen
  have hoff : c < 32 := hc.trans_le (nctx_le hs.cfg)
  have hget : s.cx.getD c .empty = x := by rw [List.getD_eq_getElem?_getD, hx, Option.getD_some]
  refine ⟨(readsAs_iff (hostReg_cxp0 hc) (by omega) (by omega) hp rfl).mpr ?_,
    (readsAs_iff (hostReg_cxp1 hc) (by omega) (by omega) hp rfl).mpr ?_,
    (readsAs_iff (hostReg_cxst hc) (by omega) (by omega) hp rfl).mpr ?_⟩ <;> rw [State.regValue, hget]
  · exact toNat_halves_fields (by omega) (by omega) _ _
  · exact toNat_halves_fields (by omega) (by omega) _ _
  · exact toNat_twoFlags _ _

/-- A register of the map below 0x100 whose read is specified outside the reset-clearing phase. -/
theorem readsAs_of_value {off n : Nat} {r : HostReg} (hp : s.phase ≠ .clearing) (hr : hostReg s.cfg off = some r)
    (hu : r.unspecifiedWhileRunning = false) (h4 : off % 4 = 0) (hoff : off < 0x1000) (hn : (s.regValue r).toNat = n) :
    readsAs s off n :=
  (readsAs_iff hr h4 hoff hp hu).mpr hn

/-- Settles O60: the register words field by field, the selection, and the window's word kind by kind. -/
theorem hostReadsReturnStoredValues : Obligations.HostReadsReturnStoredValues := by
  refine ⟨fun s hs hp => ?_, fun s hp => ?_, fun s => ?_, fun s _ hp => ?_⟩
  · have hfiles := (State.shape_iff.mp hs).1
    have hread {off n : Nat} {r : HostReg} := readsAs_of_value (off := off) (n := n) (r := r) hp
    refine ⟨hread (r := .id) rfl rfl rfl (by decide) rfl,
      hread rfl rfl rfl (by decide) (toNat_cfg0 hfiles.cfg), hread rfl rfl rfl (by decide) (toNat_cfg1 hfiles.cfg),
      hread rfl rfl rfl (by decide) (toNat_cfg2 hfiles.cfg), hread rfl rfl rfl (by decide) (toNat_cfg3 hfiles.cfg),
      hread rfl rfl rfl (by decide) (toNat_ctrl s), fun n => ?_, hread (r := .errcmd) rfl rfl rfl (by decide) rfl,
      hread (r := .cmd) rfl rfl rfl (by decide) rfl,
      hread (r := .arg) rfl rfl rfl (by decide) (toNat_halves_fields (by omega) (by omega) _ _),
      hread (r := .result) rfl rfl rfl (by decide) rfl, hread (r := .parties) rfl rfl rfl (by decide) ?_,
      hread rfl rfl rfl (by decide) (toNat_vptr hfiles), hread (r := .wsel) rfl rfl rfl (by decide) rfl,
      fun c x hx => contextReads hfiles hp hx, fun off h4 hoff hmap hcx => ?_⟩
    · rw [readsAs_iff (r := .err) rfl rfl (by decide) hp rfl, toNat_err, errorNumber_eq_iff]
    · exact BitVec.toNat_setWidth_of_le (by omega)
    · refine readsAs_absent (hostReg_eq_none h4 (fun q hq heq => hmap ?_) hcx) h4 hoff
      rw [heq]
      exact List.mem_map_of_mem (f := Prod.fst) hq
  · refine ⟨readsAs_idle (r := .retries) rfl rfl (by decide) hp, readsBits_idle (r := .lfsr0) rfl rfl (by decide) hp ?_,
      readsBits_idle (r := .lfsr1) rfl rfl (by decide) hp ?_,
      readsBits_idle (r := .lfsr2) rfl rfl (by decide) hp fun k hk => getLsbD_lfsr2 s hk⟩ <;> intro k hk <;>
      simp only [State.regValue, BitVec.getLsbD_extractLsb', hk, decide_true, Bool.true_and, Nat.zero_add]
  · refine ⟨fun i => ?_, fun i => ?_, fun i => ?_, fun i => ?_, fun q => ?_, winIdx_eq s, winRow_eq s, winCol_eq s⟩ <;>
      rw [winSel_eq_some_iff, winFile_eq, winReg_eq] <;> rfl
  · have hread {f : Nat → Bool} (hf : ∀ k, k < 32 → s.readWdata.getLsbD k = f k) : readsBits s 0x054 f :=
      readsBits_idle (r := .wdata) rfl rfl (by decide) hp hf
    refine ⟨fun i hsel hidx => hread fun k hk => getLsbD_readWdata_v hsel hidx hk,
      fun i hsel hrow hcol => hread fun k hk => getLsbD_readWdata_m hsel hrow hcol hk,
      fun i hsel hidx => hread fun k hk => getLsbD_readWdata_s hsel hidx hk,
      fun i bits hsel hcol hbits => hread fun k hk =>
        getLsbD_readWdata_t hsel (component_eq_some_iff.mpr hbits) hcol hk,
      fun q hsel hidx => hread fun k hk => getLsbD_readWdata_view hsel hidx hk, fun hnone => ?_⟩
    have hzero : (s.regValue .wdata).toNat = 0 := by
      rw [State.regValue, readWdata_of_noWindowWord hnone]
      rfl
    rw [← hzero]
    exact readsAs_idle rfl rfl (by decide) hp

/-! ### What the host reads after reset -/

theorem wsel_reset (p : Params) : (State.resetOf p).endClearing.wsel = 0 := rfl

/-- The window selects `V[0]`. -/
theorem winSel_reset (hp : p.valid) : (State.resetOf p).endClearing.winSel = some (.v 0) := by
  obtain ⟨-, -, ⟨hnv, -⟩, -⟩ := hp
  refine winSel_eq_some_iff.mpr ⟨?_, ?_, hnv⟩
  · rw [winFile_eq, wsel_reset]
    decide
  · rw [winReg_eq, wsel_reset]
    decide

theorem vreg_reset (p : Params) : (State.resetOf p).endClearing.v.getD 0 .empty = .empty :=
  (FileOk.replicate (n := p.nv) (Q := fun r : VReg => r = .empty) rfl).getD 0 rfl

theorem readWdata_reset (hp : p.valid) : (State.resetOf p).endClearing.readWdata = 0 := by
  have ⟨⟨hdmax, _⟩, _⟩ := hp
  have hidx : (State.resetOf p).endClearing.winIdx = 0 := by
    rw [winIdx_eq, wsel_reset]
    decide
  have hword : (State.resetOf p).endClearing.winIdx < wordsFor p.dmax := by
    rw [hidx, wordsFor]
    omega
  apply BitVec.eq_of_getLsbD_eq
  intro k hk
  rw [getLsbD_readWdata_v (winSel_reset hp) hword hk, vreg_reset]
  simp [VReg.empty]

theorem readWlen_reset (hp : p.valid) : (State.resetOf p).endClearing.readWlen = 0 := by
  simp only [State.readWlen, winSel_reset hp, vreg_reset]
  rfl

/-- Every context is empty. -/
theorem ctx_reset (p : Params) (c : Nat) : (State.resetOf p).endClearing.cx.getD c .empty = .empty :=
  (FileOk.replicate (n := p.nctx) (Q := fun x : Ctx => x = .empty) rfl).getD c rfl

/-- The registers whose words depend neither on the parameters nor on the files. -/
def fixedWords : List HostReg :=
  [.ctrl, .status, .err, .errcmd, .cmd, .arg, .result, .parties, .vptr, .retries, .wsel, .lfsr0, .lfsr1, .lfsr2]

/-- Their words are the same after reset in every configuration. -/
theorem regValue_reset_eq_ref (p : Params) {r : HostReg} (hr : r ∈ fixedWords) :
    (State.resetOf p).endClearing.regValue r = State.reset.endClearing.regValue r := by
  simp only [fixedWords, List.mem_cons, List.not_mem_nil, or_false] at hr
  rcases hr with rfl | rfl | rfl | rfl | rfl | rfl | rfl | rfl | rfl | rfl | rfl | rfl | rfl | rfl <;> rfl

/-- They are 0 but for the generator's, whose S is all ones and INIT 0 (rules R23, R159). -/
theorem regValue_reset_ref : ∀ r ∈ fixedWords, State.reset.endClearing.regValue r =
    if r = .lfsr0 ∨ r = .lfsr1 then 0xFFFFFFFF else if r = .lfsr2 then 0x0000FFFF else 0 := by
  decide

/-- Settles O50: after reset every register word is 0 but ID, the configuration and the generator. -/
theorem resetValuesRead : Obligations.ResetValuesRead := by
  intro p hp
  have hread {off : Nat} {r : HostReg} {w : Word} (hr : hostReg p off = some r) (h4 : off % 4 = 0) (hoff : off < 0x1000)
      (hw : (State.resetOf p).endClearing.regValue r = w) :
      ∃ t, (State.resetOf p).endClearing.memRead off 4 = .next t ∧ t.rdata = w :=
    ⟨_, memRead_idle hr h4 hoff rfl, hw⟩
  have hfixed {r : HostReg} (hr : r ∈ fixedWords) :=
    (regValue_reset_eq_ref p hr).trans (regValue_reset_ref r hr)
  have hnumber {off n : Nat} {r : HostReg} := readsAs_of_value (s := (State.resetOf p).endClearing) (off := off) (n := n)
    (r := r) (by simp)
  refine ⟨?_, fun c off hc hoff => ?_, hread (r := .id) rfl rfl (by decide) rfl,
    hnumber rfl rfl rfl (by decide) (toNat_cfg0 hp), hnumber rfl rfl rfl (by decide) (toNat_cfg1 hp),
    hnumber rfl rfl rfl (by decide) (toNat_cfg2 hp), hnumber rfl rfl rfl (by decide) (toNat_cfg3 hp),
    hread (r := .lfsr0) rfl rfl (by decide) (hfixed (by decide)),
    hread (r := .lfsr1) rfl rfl (by decide) (hfixed (by decide)),
    hread (r := .lfsr2) rfl rfl (by decide) (hfixed (by decide))⟩
  · simp only [List.forall_mem_cons]
    exact ⟨hread (r := .ctrl) rfl rfl (by decide) (hfixed (by decide)),
      hread (r := .status) rfl rfl (by decide) (hfixed (by decide)),
      hread (r := .err) rfl rfl (by decide) (hfixed (by decide)),
      hread (r := .errcmd) rfl rfl (by decide) (hfixed (by decide)),
      hread (r := .cmd) rfl rfl (by decide) (hfixed (by decide)),
      hread (r := .arg) rfl rfl (by decide) (hfixed (by decide)),
      hread (r := .result) rfl rfl (by decide) (hfixed (by decide)),
      hread (r := .parties) rfl rfl (by decide) (hfixed (by decide)),
      hread (r := .vptr) rfl rfl (by decide) (hfixed (by decide)),
      hread (r := .retries) rfl rfl (by decide) (hfixed (by decide)),
      hread (r := .wsel) rfl rfl (by decide) (hfixed (by decide)),
      hread (r := .wdata) rfl rfl (by decide) (readWdata_reset hp),
      hread (r := .wlen) rfl rfl (by decide) (readWlen_reset hp), nofun⟩
  · have hc' : c < 32 := hc.trans_le (nctx_le hp)
    simp only [List.mem_cons, List.not_mem_nil, or_false] at hoff
    rcases hoff with rfl | rfl | rfl
    · exact hread (hostReg_cxp0 hc) (by omega) (by omega) (by rw [State.regValue, ctx_reset]; rfl)
    · exact hread (hostReg_cxp1 hc) (by omega) (by omega) (by rw [State.regValue, ctx_reset]; rfl)
    · exact hread (hostReg_cxst hc) (by omega) (by omega) (by rw [State.regValue, ctx_reset]; rfl)

end Sys2Proof.Machine
end

section
/-! PROOFS. Host accesses outside the idle phase (rules R50, R51), reads as accesses that change no state (rule R41), and the
end of a host program (rules R76, R160). -/

namespace Sys2Proof.Machine

variable {s t : State} {p : Params}

/-! ### What stands at an offset (rule R27) -/

/-- A register stands in the map or belongs to a context. -/
theorem hostReg_cases {off : Nat} {r : HostReg} (h : hostReg p off = some r) :
    (off, r) ∈ registerMap ∨ ∃ c, r = .cxp0 c ∨ r = .cxp1 c ∨ r = .cxst c := by
  unfold hostReg at h
  split at h
  · exact .inl (mem_registerMap_of_lookup h)
  · obtain ⟨-, h⟩ := Option.ite_none_right_eq_some.mp h
    split at h <;> cases h
    · exact .inr ⟨_, .inl rfl⟩
    · exact .inr ⟨_, .inr (.inl rfl)⟩
    · exact .inr ⟨_, .inr (.inr rfl)⟩

/-- STATUS stands at one offset alone. -/
theorem eq_of_hostReg_status {off : Nat} (h : hostReg p off = some .status) : off = 0x018 := by
  rcases hostReg_cases h with hmem | ⟨c, hc | hc | hc⟩
  · simpa [registerMap] using hmem
  all_goals cases hc

/-- The registers that rule R51 lets a host read stand at six offsets. -/
theorem offset_of_readableWhileClearing {off : Nat} {r : HostReg} (h : hostReg p off = some r)
    (hread : r.readableWhileClearing = true) : off ∈ [0x000, 0x004, 0x008, 0x00C, 0x010, 0x018] := by
  have hmap : ∀ q ∈ registerMap, q.2.readableWhileClearing = true →
      q.1 ∈ [0x000, 0x004, 0x008, 0x00C, 0x010, 0x018] := by decide
  rcases hostReg_cases h with hmem | ⟨c, rfl | rfl | rfl⟩
  · exact hmap _ hmem hread
  all_goals cases hread

/-- Below 0x100 the registers whose writes set DROP stand at six offsets (rule R50). -/
theorem lookup_dropped_iff (off : Nat) : (registerMap.lookup off).any HostReg.droppedWhileRunning = true ↔
    off ∈ [0x024, 0x028, 0x030, 0x050, 0x054, 0x058] := by
  constructor
  · intro h
    obtain ⟨r, hr, hdrop⟩ := (Option.any_eq_true _ _).mp h
    have hmap : ∀ q ∈ registerMap, q.2.droppedWhileRunning = true →
        q.1 ∈ [0x024, 0x028, 0x030, 0x050, 0x054, 0x058] := by decide
    exact hmap _ (mem_registerMap_of_lookup hr) hdrop
  · have hlookup : ∀ a ∈ [0x024, 0x028, 0x030, 0x050, 0x054, 0x058],
        (registerMap.lookup a).any HostReg.droppedWhileRunning = true := by decide
    exact hlookup off

/-- The offsets of the registers whose writes set DROP: six of the map, CXP0 and CXP1 of every context (rule R50). -/
theorem hostReg_dropped_iff {off : Nat} (h4 : off % 4 = 0) :
    (hostReg p off).any HostReg.droppedWhileRunning = true ↔
      off ∈ [0x024, 0x028, 0x030, 0x050, 0x054, 0x058] ∨
        (0x100 ≤ off ∧ (off - 0x100) / 16 < p.nctx ∧ (off % 16 = 0 ∨ off % 16 = 4)) := by
  by_cases hlow : off < 0x100
  · have hno : ¬ 0x100 ≤ off := by omega
    simp only [hostReg, if_pos hlow, lookup_dropped_iff, hno, false_and, or_false]
  · have hle : 0x100 ≤ off := by omega
    have hmap : off ∉ [0x024, 0x028, 0x030, 0x050, 0x054, 0x058] := by
      simp only [List.mem_cons, List.not_mem_nil, or_false]
      omega
    simp only [hostReg, if_neg hlow, hmap, hle, false_or, true_and]
    by_cases hc : (off - 0x100) / 16 < p.nctx
    · have hmod : (off - 0x100) % 16 = off % 16 := by omega
      have h16 : off % 16 = 0 ∨ off % 16 = 4 ∨ off % 16 = 8 ∨ off % 16 = 12 := by omega
      simp only [hc, hmod, true_and]
      rcases h16 with h | h | h | h <;> rw [h] <;> simp [HostReg.droppedWhileRunning]
    · simp [hc]

/-! ### Accesses in the three phases -/

theorem memRead_aligned {off : Nat} (h4 : off % 4 = 0) (hoff : off < 0x1000) :
    s.memRead off 4 = .next (s.readReg (hostReg s.cfg off)) := by
  simp [State.memRead, accessForm, h4, hoff]

theorem memWrite_aligned {off : Nat} (h4 : off % 4 = 0) (hoff : off < 0x1000) (x : Word) :
    s.memWrite off 4 x = .next (s.writeHost (hostReg s.cfg off) x) := by
  simp [State.memWrite, accessForm, h4, hoff]

/-- While a command is in flight a write past CTRL and STATUS sets DROP or does nothing (rules R40, R50). -/
theorem writeHost_running {j : Job} {r : Option HostReg} (hj : s.phase = .running j) (hctrl : r ≠ some .ctrl)
    (hstatus : r ≠ some .status) (x : Word) :
    s.writeHost r x = if r.any HostReg.droppedWhileRunning = true then s.setDrop else s := by
  cases r with
  | none => rfl
  | some r =>
    simp only [State.writeHost, hj, Option.any_some]
    split
    · exact absurd rfl hctrl
    · exact absurd rfl hstatus
    · rfl

theorem writeHost_clearing (hp : s.phase = .clearing) (r : Option HostReg) (x : Word) : s.writeHost r x = s := by
  cases r with
  | none => rfl
  | some r => simp only [State.writeHost, hp]

theorem readReg_clearing_readable {r : HostReg} (hp : s.phase = .clearing) (hr : r.readableWhileClearing = true) :
    s.readReg (some r) = s.putRdata (s.regValue r) := by
  simp only [State.readReg, hp, if_pos hr]

/-- A read of any other offset in the reset-clearing phase returns 0 (rule R51). -/
theorem readReg_clearing_zero {r : Option HostReg} (hp : s.phase = .clearing)
    (hr : ∀ q, r = some q → q.readableWhileClearing = false) : s.readReg r = s.putRdata 0 := by
  cases r with
  | none => rfl
  | some q => simp [State.readReg, hp, hr q rfl]

/-! ### The statements about the busy phases -/

/-- Settles O45: the write sets DROP exactly at the offsets of the writable registers. -/
theorem writesWhileBusyAreDropped : Obligations.WritesWhileBusyAreDropped := by
  intro s j addr x hj h4 hoff hctrl hstatus
  rw [memWrite_aligned h4 hoff, writeHost_running hj (fun h => hctrl (eq_of_hostReg_ctrl h))
    (fun h => hstatus (eq_of_hostReg_status h))]
  simp only [hostReg_dropped_iff h4]
  exact apply_ite _ _ _ _

/-- ID and the configuration read the same in every phase, as no part of the phase is in them (rules R27, R51). -/
theorem configurationRead_clearing {addr : Nat} (hp : s.phase = .clearing)
    (haddr : addr ∈ [0x000, 0x004, 0x008, 0x00C, 0x010]) : ∃ t u, s.memRead addr 4 = .next t ∧
      ({ s with phase := .idle } : State).memRead addr 4 = .next u ∧ t = { s with rdata := u.rdata } := by
  have hreg : ∃ r, hostReg s.cfg addr = some r ∧ r.readableWhileClearing = true ∧ addr % 4 = 0 ∧ addr < 0x1000 ∧
      s.regValue r = ({ s with phase := .idle } : State).regValue r := by
    simp only [List.mem_cons, List.not_mem_nil, or_false] at haddr
    rcases haddr with rfl | rfl | rfl | rfl | rfl <;> exact ⟨_, rfl, rfl, rfl, by decide, rfl⟩
  obtain ⟨r, hr, hread, h4, hoff, hvalue⟩ := hreg
  refine ⟨_, _, memRead_aligned h4 hoff, memRead_idle hr h4 hoff rfl, ?_⟩
  rw [hr, readReg_clearing_readable hp hread, hvalue]
  rfl

/-- Settles O46: writes are ignored, six registers read, and every other offset reads 0. -/
theorem clearingPhaseIgnoresTheHost : Obligations.ClearingPhaseIgnoresTheHost := by
  intro s addr x hp h4 hoff
  refine ⟨?_, configurationRead_clearing hp, ⟨_, memRead_status s, rfl, ?_⟩, fun haddr => ?_⟩
  · rw [memWrite_aligned h4 hoff, writeHost_clearing hp]
  · obtain ⟨hbusy, -⟩ := statusWord_bits s
    have hne : s.phase ≠ .idle := by rw [hp]; nofun
    exact hbusy.trans (busy_iff.mpr hne)
  · rw [memRead_aligned h4 hoff, readReg_clearing_zero hp fun q hq => ?_]
    · rfl
    · exact Bool.eq_false_iff.mpr fun hread => haddr (offset_of_readableWhileClearing hq hread)

/-! ### Reads change no state (rule R41) -/

/-- The output latch is in no register's word. -/
theorem regValue_putRdata (x : Word) (r : HostReg) : (s.putRdata x).regValue r = s.regValue r := by
  cases r <;> rfl

/-- With no command in flight a read sets the output latch and nothing else. -/
theorem readReg_eq_putRdata (hp : ∀ j, s.phase ≠ .running j) (r : Option HostReg) :
    ∃ y, s.readReg r = s.putRdata y := by
  cases r with
  | none => exact ⟨0, rfl⟩
  | some r =>
    cases h : s.phase with
    | idle => exact ⟨s.regValue r, by simp only [State.readReg, h]⟩
    | clearing => exact ⟨if r.readableWhileClearing then s.regValue r else 0, by simp only [State.readReg, h]⟩
    | running j => exact absurd h (hp j)

/-- With no command in flight a read does not depend on what was read before. -/
theorem readReg_putRdata (hp : ∀ j, s.phase ≠ .running j) (x : Word) (r : Option HostReg) :
    (s.putRdata x).readReg r = s.readReg r := by
  cases r with
  | none => rfl
  | some r =>
    cases h : s.phase with
    | idle =>
      simp only [State.readReg, putRdata_phase, h, regValue_putRdata]
      rfl
    | clearing =>
      simp only [State.readReg, putRdata_phase, h, regValue_putRdata]
      rfl
    | running j => exact absurd h (hp j)

/-- A read that is performed is the read of the register at its offset. -/
theorem memRead_eq_next_iff {addr size : Nat} :
    s.memRead addr size = .next t ↔ accessForm addr size = true ∧ t = s.readReg (hostReg s.cfg addr) := by
  unfold State.memRead
  split
  · simp [*, eq_comm]
  · simp [*]

/-- With no command in flight a second read of the same register changes nothing more. -/
theorem memRead_again {addr size : Nat} (hp : ∀ j, s.phase ≠ .running j) (h : s.memRead addr size = .next t) :
    t.freeReads = s.freeReads ∧ t.memRead addr size = .next t := by
  obtain ⟨hform, ht⟩ := memRead_eq_next_iff.mp h
  obtain ⟨y, hy⟩ := readReg_eq_putRdata hp (hostReg s.cfg addr)
  have hty : t = s.putRdata y := ht.trans hy
  refine ⟨by rw [hty, putRdata_freeReads], memRead_eq_next_iff.mpr ⟨hform, ?_⟩⟩
  calc t = s.readReg (hostReg s.cfg addr) := ht
    _ = (s.putRdata y).readReg (hostReg s.cfg addr) := (readReg_putRdata hp y _).symm
    _ = t.readReg (hostReg t.cfg addr) := by rw [hty, putRdata_cfg]

/-! ### The end of a host program (rules R76, R160) -/

/-- The TRNG delivers nothing to an idle engine. -/
theorem deliver_idle (hp : s.phase = .idle) (bits : List Bool) : s.deliver bits = s := by
  simp only [State.deliver, hp]

theorem turnStep_idle (hp : s.phase = .idle) : s.turnStep = .next s := by
  simp only [State.turnStep, hp]

theorem trngValid_idle (hp : s.phase = .idle) (b : Bool) : s.trngValid b = s := by
  rcases trngValid_cases s b with ⟨-, h⟩ | ⟨-, h⟩
  · exact h.trans (deliver_idle hp _)
  · exact h

/-- An idle engine's turn does nothing, the TRNG's answer before it included (rule R160). -/
theorem autoStep_idle (hp : s.phase = .idle) : s.autoStep = .next s := by
  rw [State.autoStep, State.answerTrng, deliver_idle hp, turnStep_idle hp]

/-- Of the events that are no host access only a low `rst_n` acts on an idle block. -/
theorem envStep_idle {e : EnvEvent} (hp : s.phase = .idle) (he : e.isHostAccess = false) (hreset : e ≠ .resetPin) :
    s.envStep e = .next s := by
  cases e with
  | read addr size => cases he
  | write addr size x => cases he
  | poll => cases he
  | resetPin => exact absurd rfl hreset
  | trng b => exact congrArg _ (trngValid_idle hp b)
  | turn => exact turnStep_idle hp

/-- From a program's end a step that is no low `rst_n` takes an event off the script, if there is one, and does nothing else
(rule R76). -/
theorem step_programEnd (h : s.programEnd) (hreset : ∀ rest, s.env ≠ .resetPin :: rest) :
    step s = .next { s with env := s.env.tail } := by
  obtain ⟨haccess, hidle⟩ := h
  cases henv : s.env with
  | nil =>
    have hs : ({ s with env := [] } : State) = s := by rw [← henv]
    simp only [step, henv, List.tail_nil, autoStep_idle hidle, hs]
  | cons e rest =>
    have he : e.isHostAccess = false := haccess e (by rw [henv]; exact List.mem_cons_self)
    have hne : e ≠ .resetPin := fun h => hreset rest (by rw [henv, h])
    simp only [step, henv, List.tail_cons]
    exact envStep_idle hidle he hne

/-- Settles O47: a read sets the latch, and at a program's end a step only shortens the script. -/
theorem readsHaveNoSideEffect : Obligations.ReadsHaveNoSideEffect := by
  refine ⟨fun s t addr size h => ⟨?_, fun hp => memRead_again hp h⟩, fun s t hend h => ?_⟩
  · obtain ⟨-, ht⟩ := memRead_eq_next_iff.mp h
    obtain ⟨x, k, hread⟩ := readReg_frame s (hostReg s.cfg addr)
    rw [ht, hread]
  · by_cases hreset : ∃ rest, s.env = .resetPin :: rest
    · exact .inl hreset
    · right
      rw [step_programEnd hend (not_exists.mp hreset)] at h
      cases h
      obtain ⟨haccess, hidle⟩ := hend
      exact ⟨rfl, fun e he => haccess e (List.mem_of_mem_tail he), hidle⟩

end Sys2Proof.Machine
end

section
/-! PROOFS. Writes through the window (rules R44 to R48): the bits of a string after one of its words was written, the register
that a WDATA or WLEN write leaves, and the metadata as a number. -/

namespace Sys2Proof.Machine

variable {s : State} {i : Nat}

/-! ### One word of a string (rules R45, R48) -/

/-- A word written into a string of `size` elements: its elements take the data, those that do not exist stay 0, and every other
element stays. -/
theorem getLsbD_cutTo_putWord {n size : Nat} {b : BitVec n} (hsize : size ≤ n) (hb : b.toNat < 2 ^ size) (w : Nat) (x : Word)
    (j : Nat) : (cutTo size (putWord b w x)).getLsbD j =
      if 32 * w ≤ j ∧ j < 32 * w + 32 then decide (j < size) && x.getLsbD (j - 32 * w) else b.getLsbD j := by
  rw [getLsbD_cutTo, getLsbD_putWord]
  by_cases hj : j < size
  · have hn : j < n := by omega
    simp [hj, hn]
  · have hold : b.getLsbD j = false := getLsbD_of_toNat_lt hb (by omega)
    simp [hj, hold]

theorem getLsbD_cutTo_putWord_same {n size : Nat} {b : BitVec n} (hsize : size ≤ n) (hb : b.toNat < 2 ^ size) (w : Nat)
    (x : Word) {k : Nat} (hk : k < 32) :
    (cutTo size (putWord b w x)).getLsbD (32 * w + k) = (decide (32 * w + k < size) && x.getLsbD k) := by
  rw [getLsbD_cutTo_putWord hsize hb, if_pos (by omega), Nat.add_sub_cancel_left]

theorem getLsbD_cutTo_putWord_other {n size : Nat} {b : BitVec n} (hsize : size ≤ n) (hb : b.toNat < 2 ^ size) (w : Nat)
    (x : Word) {j : Nat} (hj : j < 32 * w ∨ 32 * w + 32 ≤ j) :
    (cutTo size (putWord b w x)).getLsbD j = b.getLsbD j := by
  rw [getLsbD_cutTo_putWord hsize hb, if_neg (by omega)]

/-- Elements 0 to `pmax` of a share array are all the elements it has (rules R12, R17). -/
theorem toNat_partyString_lt {pmax : Nat} {b : PartyBits} (hb : b.toNat < 2 ^ pmax) :
    (partyString b).toNat < 2 ^ (pmax + 1) := by
  refine toNat_lt_of_getLsbD fun j hj => ?_
  rw [getLsbD_partyString, getLsbD_of_toNat_lt hb (by omega), Bool.and_false]

/-! ### One register of a file, one row of a register -/

/-- A register that exists reads as it was written. -/
theorem getD_set_self {α : Type} {file : List α} (hi : i < file.length) (r d : α) : (file.set i r).getD i d = r := by
  rw [List.getD_eq_getElem?_getD, List.getElem?_set_self hi, Option.getD_some]

theorem getD_set_of_ne {α : Type} {file : List α} {q : Nat} (hq : q ≠ i) (r d : α) :
    (file.set i r).getD q d = file.getD q d := by
  rw [List.getD_eq_getElem?_getD, List.getElem?_set_ne hq.symm, List.getD_eq_getElem?_getD]

/-- A row of a matrix register is a string of DMAX elements (rule R16). -/
theorem MReg.Fits.row {p : Params} {r : MReg} (h : r.Fits p) (q : Nat) : (r.bits.getD q 0).toNat < 2 ^ p.dmax := by
  obtain ⟨-, -, -, hbits⟩ := h
  exact FileOk.getD (Q := fun x : Store => x.toNat < 2 ^ p.dmax) ⟨rfl, hbits⟩ q (toNat_zero_lt _ _)

/-! ### A register after word `w` of one of its strings was written (rules R45, R48) -/

/-- `V[i]` of DMAX elements; its length stays. -/
def VReg.withWord (dmax : Nat) (r : VReg) (w : Nat) (x : Word) : VReg :=
  { r with bits := cutTo dmax (putWord r.bits w x) }

/-- Row `row` of `M[i]`; the other rows and the dimensions stay. -/
def MReg.withWord (dmax : Nat) (r : MReg) (row w : Nat) (x : Word) : MReg :=
  { r with bits := r.bits.set row (cutTo dmax (putWord (r.bits.getD row 0) w x)) }

/-- `S[i]`; element 0 of the array takes no bit of the data (rule R17), and the count stays. -/
def SReg.withWord (pmax : Nat) (r : SReg) (w : Nat) (x : Word) : SReg :=
  { r with b := partyBitsOf (cutTo (pmax + 1) (putWord (partyString r.b) w x)) }

section
variable {p : Params} (hp : p.valid) (w : Nat) (x : Word)
include hp

theorem dmax_le : p.dmax ≤ 2047 := by
  obtain ⟨⟨-, hdmax⟩, -⟩ := hp
  exact hdmax

theorem pmax_le : p.pmax ≤ 255 := by
  obtain ⟨-, ⟨-, hpmax⟩, -⟩ := hp
  exact hpmax

theorem VReg.getLsbD_withWord_same {r : VReg} (h : r.Fits p) {k : Nat} (hk : k < 32) :
    (r.withWord p.dmax w x).bits.getLsbD (32 * w + k) = (decide (32 * w + k < p.dmax) && x.getLsbD k) :=
  getLsbD_cutTo_putWord_same (dmax_le hp) h.2 w x hk

theorem VReg.getLsbD_withWord_other {r : VReg} (h : r.Fits p) {j : Nat} (hj : j < 32 * w ∨ 32 * w + 32 ≤ j) :
    (r.withWord p.dmax w x).bits.getLsbD j = r.bits.getLsbD j :=
  getLsbD_cutTo_putWord_other (dmax_le hp) h.2 w x hj

theorem MReg.getLsbD_withWord_same {r : MReg} (h : r.Fits p) {row : Nat} (hrow : row < p.dmax) {k : Nat} (hk : k < 32) :
    ((r.withWord p.dmax row w x).bits.getD row 0).getLsbD (32 * w + k) =
      (decide (32 * w + k < p.dmax) && x.getLsbD k) := by
  have ⟨_, _, hlen, _⟩ := h
  rw [MReg.withWord, getD_set_self (hlen ▸ hrow)]
  exact getLsbD_cutTo_putWord_same (dmax_le hp) (h.row row) w x hk

theorem MReg.getLsbD_withWord_other {r : MReg} (h : r.Fits p) {row : Nat} (hrow : row < p.dmax) {q j : Nat}
    (hj : q ≠ row ∨ j < 32 * w ∨ 32 * w + 32 ≤ j) :
    ((r.withWord p.dmax row w x).bits.getD q 0).getLsbD j = (r.bits.getD q 0).getLsbD j := by
  have ⟨_, _, hlen, _⟩ := h
  rw [MReg.withWord]
  by_cases hq : q = row
  · subst hq
    rw [getD_set_self (hlen ▸ hrow)]
    exact getLsbD_cutTo_putWord_other (dmax_le hp) (h.row q) w x (hj.resolve_left (not_not_intro rfl))
  · rw [getD_set_of_ne hq]

/-- Party `e`'s bit is element `e` of the array as the host sees it. -/
theorem SReg.getLsbD_withWord (r : SReg) {e : Nat} (he : 1 ≤ e) : (r.withWord p.pmax w x).b.getLsbD (e - 1) =
    (cutTo (p.pmax + 1) (putWord (partyString r.b) w x)).getLsbD e := by
  have hpmax := pmax_le hp
  have hadd : 1 + (e - 1) = e := by omega
  rw [SReg.withWord, getLsbD_partyBitsOf, hadd]
  by_cases hlt : e - 1 < 255
  · simp [hlt]
  · have hge : (cutTo (p.pmax + 1) (putWord (partyString r.b) w x)).getLsbD e = false :=
      getLsbD_of_toNat_lt (toNat_cutTo_lt _) (by omega)
    simp [hge]

theorem SReg.getLsbD_withWord_same {r : SReg} (h : r.Fits p) {k : Nat} (hk : k < 32) (he : 1 ≤ 32 * w + k) :
    (r.withWord p.pmax w x).b.getLsbD (32 * w + k - 1) = (decide (32 * w + k ≤ p.pmax) && x.getLsbD k) := by
  have hsize : p.pmax + 1 ≤ 256 := Nat.succ_le_succ (pmax_le hp)
  rw [getLsbD_withWord hp w x r he, getLsbD_cutTo_putWord_same hsize (toNat_partyString_lt h.2) w x hk,
    decide_eq_decide.mpr Nat.lt_succ_iff]

theorem SReg.getLsbD_withWord_other {r : SReg} (h : r.Fits p) {e : Nat} (he : 1 ≤ e)
    (hout : e < 32 * w ∨ 32 * w + 32 ≤ e) : (r.withWord p.pmax w x).b.getLsbD (e - 1) = r.b.getLsbD (e - 1) := by
  have hsize : p.pmax + 1 ≤ 256 := Nat.succ_le_succ (pmax_le hp)
  have hne : e ≠ 0 := by omega
  rw [getLsbD_withWord hp w x r he, getLsbD_cutTo_putWord_other hsize (toNat_partyString_lt h.2) w x hout,
    getLsbD_partyString]
  simp [hne]

end

/-! ### A WDATA write (rules R45, R47) -/

theorem writeWdata_v (x : Word) (hsel : s.winSel = some (.v i)) (hidx : s.winIdx < wordsFor s.cfg.dmax) :
    s.writeWdata x =
      { s with v := s.v.set i ((s.v.getD i .empty).withWord s.cfg.dmax s.winIdx x) } := by
  simp only [State.writeWdata, hsel, if_pos hidx, VReg.withWord]

theorem writeWdata_m (x : Word) (hsel : s.winSel = some (.m i)) (hrow : s.winRow < s.cfg.dmax)
    (hcol : s.winCol < wordsFor s.cfg.dmax) :
    s.writeWdata x =
      { s with m := s.m.set i ((s.m.getD i (.empty s.cfg)).withWord s.cfg.dmax s.winRow s.winCol x) } := by
  simp only [State.writeWdata, hsel, if_pos (And.intro hrow hcol), MReg.storeRow, MReg.withWord]

theorem writeWdata_s (x : Word) (hsel : s.winSel = some (.s i)) (hidx : s.winIdx < wordsFor (s.cfg.pmax + 1)) :
    s.writeWdata x =
      { s with sh := s.sh.set i ((s.sh.getD i .empty).withWord s.cfg.pmax s.winIdx x) } := by
  simp only [State.writeWdata, hsel, if_pos hidx, SReg.withWord]

/-- Without a word of V, M or S selected a WDATA write is ignored (rules R45, R47). -/
theorem writeWdata_ignored (x : Word)
    (h : s.noWindowWord ∨ (∃ k, s.winSel = some (.t k)) ∨ ∃ p, s.winSel = some (.view p)) : s.writeWdata x = s := by
  rcases h with (hsel | ⟨q, hsel, hw⟩ | ⟨q, hsel, hw⟩ | ⟨q, hsel, hw⟩ | ⟨q, hsel, -⟩ | ⟨q, hsel, -⟩) | ⟨q, hsel⟩ |
    ⟨q, hsel⟩ <;> simp only [State.writeWdata, hsel]
  · exact if_neg (by omega)
  · exact if_neg (by omega)
  · exact if_neg (by omega)

theorem memWrite_wdata (x : Word) (hp : s.phase = .idle) : s.memWrite 0x054 4 x = .next (s.writeWdata x) :=
  memWrite_idle (r := .wdata) x rfl rfl (by decide) hp

theorem memRead_wdata (hp : s.phase = .idle) : s.memRead 0x054 4 = .next (s.putRdata s.readWdata) :=
  memRead_idle (r := .wdata) rfl rfl (by decide) hp

/-! ### A WDATA read after a register was replaced (rules R44, R47) -/

section
variable {k : Nat}

theorem getLsbD_readWdata_set_v (hs : s.FilesOk) (hsel : s.winSel = some (.v i)) (hidx : s.winIdx < wordsFor s.cfg.dmax)
    (hk : k < 32) (r : VReg) : ({ s with v := s.v.set i r } : State).readWdata.getLsbD k =
      (decide (32 * s.winIdx + k < s.cfg.dmax) && r.bits.getLsbD (32 * s.winIdx + k)) := by
  have hread := getLsbD_readWdata_v (s := { s with v := s.v.set i r }) hsel hidx hk
  rwa [getD_set_self (hs.v.1 ▸ winSel_inFile hsel)] at hread

theorem getLsbD_readWdata_set_m (hs : s.FilesOk) (hsel : s.winSel = some (.m i)) (hrow : s.winRow < s.cfg.dmax)
    (hcol : s.winCol < wordsFor s.cfg.dmax) (hk : k < 32) (r : MReg) :
    ({ s with m := s.m.set i r } : State).readWdata.getLsbD k =
      (decide (32 * s.winCol + k < s.cfg.dmax) && (r.bits.getD s.winRow 0).getLsbD (32 * s.winCol + k)) := by
  have hread := getLsbD_readWdata_m (s := { s with m := s.m.set i r }) hsel hrow hcol hk
  rwa [getD_set_self (hs.m.1 ▸ winSel_inFile hsel)] at hread

theorem getLsbD_readWdata_set_s (hs : s.FilesOk) (hsel : s.winSel = some (.s i))
    (hidx : s.winIdx < wordsFor (s.cfg.pmax + 1)) (hk : k < 32) (r : SReg) :
    ({ s with sh := s.sh.set i r } : State).readWdata.getLsbD k =
      (decide (32 * s.winIdx + k ≤ s.cfg.pmax) && decide (32 * s.winIdx + k ≠ 0) &&
        r.b.getLsbD (32 * s.winIdx + k - 1)) := by
  have hread := getLsbD_readWdata_s (s := { s with sh := s.sh.set i r }) hsel hidx hk
  rwa [getD_set_self (hs.sh.1 ▸ winSel_inFile hsel)] at hread

end

/-- Settles O53: the written word file by file, and the window's read of it. -/
theorem windowWordTakesTheData : Obligations.WindowWordTakesTheData := by
  intro s i x hs hp
  have hfiles := (State.shape_iff.mp hs).1
  have hcfg := hfiles.cfg
  refine ⟨fun hsel hidx => ?_, fun hsel hrow hcol => ?_, fun hsel hidx => ?_, fun h => ?_⟩
  · have hi : i < s.v.length := hfiles.v.1 ▸ winSel_inFile hsel
    have hr := hfiles.v.getD i (VReg.empty_fits _)
    have hsame {k : Nat} (hk : k < 32) := VReg.getLsbD_withWord_same hcfg s.winIdx x hr hk
    refine ⟨_, _, (memWrite_wdata x hp).trans (congrArg _ (writeWdata_v x hsel hidx)), memRead_wdata hp, rfl,
      fun k hk => (getLsbD_readWdata_set_v hfiles hsel hidx hk _).trans ?_, ?_⟩
    · rw [hsame hk, Bool.and_self_left]
    · rw [getD_set_self hi]
      exact ⟨fun k hk => hsame hk, fun q hq => List.getElem?_set_ne hq.symm, rfl,
        fun j hj => VReg.getLsbD_withWord_other hcfg s.winIdx x hr hj⟩
  · have hi : i < s.m.length := hfiles.m.1 ▸ winSel_inFile hsel
    have hr := hfiles.m.getD i (MReg.empty_fits _)
    have hsame {k : Nat} (hk : k < 32) := MReg.getLsbD_withWord_same hcfg s.winCol x hr hrow hk
    refine ⟨_, _, (memWrite_wdata x hp).trans (congrArg _ (writeWdata_m x hsel hrow hcol)), memRead_wdata hp, rfl,
      fun k hk => (getLsbD_readWdata_set_m hfiles hsel hrow hcol hk _).trans ?_, ?_⟩
    · rw [hsame hk, Bool.and_self_left]
    · rw [getD_set_self hi]
      exact ⟨fun k hk => hsame hk, fun q hq => List.getElem?_set_ne hq.symm, rfl, rfl,
        fun r j hj => MReg.getLsbD_withWord_other hcfg s.winCol x hr hrow hj⟩
  · have hi : i < s.sh.length := hfiles.sh.1 ▸ winSel_inFile hsel
    have hr := hfiles.sh.getD i (SReg.empty_fits _)
    have hsame {k : Nat} (hk : k < 32) := SReg.getLsbD_withWord_same hcfg s.winIdx x hr hk
    refine ⟨_, _, (memWrite_wdata x hp).trans (congrArg _ (writeWdata_s x hsel hidx)), memRead_wdata hp, rfl,
      fun k hk => (getLsbD_readWdata_set_s hfiles hsel hidx hk _).trans ?_, ?_⟩
    · by_cases hne : 32 * s.winIdx + k = 0
      · simp only [hne, ne_eq, not_true_eq_false, decide_false, Bool.and_false, Bool.false_and]
      · rw [hsame hk (Nat.one_le_iff_ne_zero.mpr hne), Bool.and_right_comm, Bool.and_self_left, Bool.and_right_comm]
    · rw [getD_set_self hi]
      exact ⟨fun k hk he => hsame hk he, fun q hq => List.getElem?_set_ne hq.symm, rfl,
        fun e he hout => SReg.getLsbD_withWord_other hcfg s.winIdx x hr he hout⟩
  · rw [memWrite_wdata x hp, writeWdata_ignored x h]

/-! ### WLEN (rule R46) -/

theorem memWrite_wlen (x : Word) (hp : s.phase = .idle) : s.memWrite 0x058 4 x = .next (s.writeWlen x) :=
  memWrite_idle (r := .wlen) x rfl rfl (by decide) hp

/-- A number in a field that holds it. -/
theorem toNat_field_ofNat {n k : Nat} (hk : k < 2 ^ n) (hn : n ≤ 32) : ((BitVec.ofNat n k).setWidth 32).toNat = k := by
  rw [BitVec.toNat_setWidth_of_le hn, BitVec.toNat_ofNat, Nat.mod_eq_of_lt hk]

section
variable (hs : s.FilesOk)
include hs

theorem toNat_readWlen_v (hsel : s.winSel = some (.v i)) : s.readWlen.toNat = (s.v.getD i .empty).len := by
  obtain ⟨hlen, -⟩ := hs.v.getD i (VReg.empty_fits _)
  have hdmax := dmax_le hs.cfg
  simp only [State.readWlen, hsel]
  exact toNat_field_ofNat (by omega) (by omega)

theorem toNat_readWlen_m (hsel : s.winSel = some (.m i)) : s.readWlen.toNat =
    (s.m.getD i (.empty s.cfg)).rows + 2 ^ 16 * (s.m.getD i (.empty s.cfg)).cols := by
  obtain ⟨hrows, hcols, -⟩ := hs.m.getD i (MReg.empty_fits _)
  have hdmax := dmax_le hs.cfg
  have hr := toNat_field_ofNat (n := 11) (k := (s.m.getD i (.empty s.cfg)).rows) (by omega) (by omega)
  have hc := toNat_field_ofNat (n := 11) (k := (s.m.getD i (.empty s.cfg)).cols) (by omega) (by omega)
  simp only [State.readWlen, hsel]
  rw [BitVec.or_comm]
  refine (toNat_halves ?_ ?_).trans ?_ <;> omega

theorem toNat_readWlen_s (hsel : s.winSel = some (.s i)) : s.readWlen.toNat = (s.sh.getD i .empty).cnt := by
  obtain ⟨hcnt, -⟩ := hs.sh.getD i (SReg.empty_fits _)
  have hpmax := pmax_le hs.cfg
  simp only [State.readWlen, hsel]
  exact toNat_field_ofNat (by omega) (by omega)

/-- `valid` stands above the count, in bit 31. -/
theorem toNat_readWlen_t (hsel : s.winSel = some (.t i)) : s.readWlen.toNat =
    (s.tr.getD i .empty).cnt + 2 ^ 31 * (s.tr.getD i .empty).valid.toNat := by
  obtain ⟨hcnt, -⟩ := hs.tr.getD i (TReg.empty_fits _)
  have hpmax := pmax_le hs.cfg
  have hvalid := (s.tr.getD i .empty).valid.toNat_le
  have hc := toNat_field_ofNat (n := 8) (k := (s.tr.getD i .empty).cnt) (by omega) (by omega)
  have hword : s.readWlen = (BitVec.ofNat 8 (s.tr.getD i .empty).cnt).setWidth 32 |||
      flagBit 31 (s.tr.getD i .empty).valid := by
    simp only [State.readWlen, hsel, flagBit]
  rw [hword, flagBit_eq_numberAt, toNat_or_numberAt (by omega) (by omega)]
  omega

theorem toNat_readWlen_view (hsel : s.winSel = some (.view i)) : s.readWlen.toNat = s.vptr := by
  obtain ⟨-, -, -, -, -, -, -, -, -, hvcap, -⟩ := hs.cfg
  have hvptr := hs.vptr
  simp only [State.readWlen, hsel, BitVec.toNat_ofNat]
  omega

end

theorem toNat_readWlen_none (hsel : s.winSel = none) : s.readWlen.toNat = 0 := by
  simp only [State.readWlen, hsel]
  rfl

/-- Settles O54: the write file by file, and the metadata as numbers. -/
theorem wlenWriteSetsMetadata : Obligations.WlenWriteSetsMetadata := by
  intro s i x hs hp
  have hfiles := (State.shape_iff.mp hs).1
  have hread {n : Nat} (hn : s.readWlen.toNat = n) : readsAs s 0x058 n :=
    hn ▸ readsAs_idle (r := .wlen) rfl rfl (by decide) hp
  refine ⟨fun hsel => ?_, fun hsel => ?_, fun hsel => ?_, ?_, fun hsel => hread (toNat_readWlen_v hfiles hsel),
    fun hsel => hread (toNat_readWlen_m hfiles hsel), fun hsel => hread (toNat_readWlen_s hfiles hsel),
    fun hsel => hread (toNat_readWlen_t hfiles hsel), fun hsel => hread (toNat_readWlen_view hfiles hsel),
    fun hsel => hread (toNat_readWlen_none hsel)⟩
  · simp only [memWrite_wlen x hp, State.writeWlen, hsel]
  · simp only [memWrite_wlen x hp, State.writeWlen, hsel]
  · simp only [memWrite_wlen x hp, State.writeWlen, hsel]
  · rintro (⟨k, hsel⟩ | ⟨q, hsel⟩ | hsel) <;> simp only [memWrite_wlen x hp, State.writeWlen, hsel]

end Sys2Proof.Machine
end

section
/-! PROOFS. The command word's fields (rules R58, R59): what each field of an assembled word is, and a word from its fields. -/

namespace Sys2Proof

section

variable (op : BitVec 6) (rd a b : RegIdx) (imm : Imm)

@[simp] theorem fieldImm_assembleWord : fieldImm (assembleWord op rd a b imm) = imm :=
  BitVec.extractLsb'_append_eq_right

@[simp] theorem fieldRs2_assembleWord : fieldRs2 (assembleWord op rd a b imm) = b :=
  (BitVec.extractLsb'_append_eq_of_le (by decide)).trans BitVec.extractLsb'_append_eq_right

@[simp] theorem fieldRs1_assembleWord : fieldRs1 (assembleWord op rd a b imm) = a :=
  (BitVec.extractLsb'_append_eq_of_le (by decide)).trans <|
    (BitVec.extractLsb'_append_eq_of_le (by decide)).trans BitVec.extractLsb'_append_eq_right

@[simp] theorem fieldRd_assembleWord : fieldRd (assembleWord op rd a b imm) = rd :=
  (BitVec.extractLsb'_append_eq_of_le (by decide)).trans <|
    (BitVec.extractLsb'_append_eq_of_le (by decide)).trans <|
    (BitVec.extractLsb'_append_eq_of_le (by decide)).trans BitVec.extractLsb'_append_eq_right

@[simp] theorem fieldOp_assembleWord : fieldOp (assembleWord op rd a b imm) = op :=
  (BitVec.extractLsb'_append_eq_of_le (by decide)).trans <|
    (BitVec.extractLsb'_append_eq_of_le (by decide)).trans <|
    (BitVec.extractLsb'_append_eq_of_le (by decide)).trans BitVec.extractLsb'_append_eq_left

/-- A word is assembled from its own fields: they cover it without a gap (rule R58). -/
theorem assembleWord_fields (w : Word) :
    assembleWord (fieldOp w) (fieldRd w) (fieldRs1 w) (fieldRs2 w) (fieldImm w) = w := by
  simp only [assembleWord, fieldOp, fieldRd, fieldRs1, fieldRs2, fieldImm]
  rw [BitVec.extractLsb'_append_extractLsb'_eq_extractLsb' (by rfl),
    BitVec.extractLsb'_append_extractLsb'_eq_extractLsb' (by rfl),
    BitVec.extractLsb'_append_extractLsb'_eq_extractLsb' (by rfl),
    BitVec.extractLsb'_append_extractLsb'_eq_extractLsb' (by rfl)]
  exact BitVec.extractLsb'_eq_self

/-- The word assembled from some fields is `w` exactly when they are `w`'s fields. -/
theorem assembleWord_eq_iff {w : Word} : assembleWord op rd a b imm = w ↔
    fieldOp w = op ∧ fieldRd w = rd ∧ fieldRs1 w = a ∧ fieldRs2 w = b ∧ fieldImm w = imm := by
  constructor
  · rintro rfl
    simp
  · rintro ⟨rfl, rfl, rfl, rfl, rfl⟩
    exact assembleWord_fields w

/-! ### The parts of the immediate (rule R59) -/

theorem fieldLow3_eq (w : Word) : fieldLow3 w = (fieldImm w).extractLsb' 0 3 :=
  (BitVec.extractLsb'_extractLsb'_of_le (by decide)).symm

theorem fieldTidx_eq (w : Word) : fieldTidx w = (fieldImm w).extractLsb' 3 5 :=
  (BitVec.extractLsb'_extractLsb'_of_le (by decide)).symm

theorem fieldGateRsv_eq (w : Word) : fieldGateRsv w = (fieldImm w).extractLsb' 8 3 :=
  (BitVec.extractLsb'_extractLsb'_of_le (by decide)).symm

theorem fieldLxrdRsv_eq (w : Word) : fieldLxrdRsv w = (fieldImm w).extractLsb' 3 8 :=
  (BitVec.extractLsb'_extractLsb'_of_le (by decide)).symm

end

/-- An immediate is GATE's exactly when its parts are GATE's. -/
theorem fieldImm_eq_gateImm_iff {w : Word} {t : RegIdx} {kind : BitVec 3} :
    fieldImm w = gateImm t kind ↔ fieldGateRsv w = 0 ∧ fieldTidx w = t ∧ fieldLow3 w = kind := by
  rw [fieldGateRsv_eq, fieldTidx_eq, fieldLow3_eq]
  constructor
  · intro h
    rw [h]
    exact ⟨(BitVec.extractLsb'_append_eq_of_le (by decide)).trans BitVec.extractLsb'_append_eq_left,
      (BitVec.extractLsb'_append_eq_of_le (by decide)).trans BitVec.extractLsb'_append_eq_right,
      BitVec.extractLsb'_append_eq_right⟩
  · rintro ⟨hrsv, rfl, rfl⟩
    rw [gateImm, show 0#3 = _ from hrsv.symm, BitVec.extractLsb'_append_extractLsb'_eq_extractLsb' (by rfl),
      BitVec.extractLsb'_append_extractLsb'_eq_extractLsb' (by rfl)]
    exact BitVec.extractLsb'_eq_self.symm

section

variable (op : BitVec 6) (rd a b t : RegIdx) (kind : BitVec 3)

@[simp] theorem fieldGateRsv_gateImm : fieldGateRsv (assembleWord op rd a b (gateImm t kind)) = 0 :=
  (fieldImm_eq_gateImm_iff.mp (fieldImm_assembleWord ..)).1

@[simp] theorem fieldTidx_gateImm : fieldTidx (assembleWord op rd a b (gateImm t kind)) = t :=
  (fieldImm_eq_gateImm_iff.mp (fieldImm_assembleWord ..)).2.1

@[simp] theorem fieldLow3_gateImm : fieldLow3 (assembleWord op rd a b (gateImm t kind)) = kind :=
  (fieldImm_eq_gateImm_iff.mp (fieldImm_assembleWord ..)).2.2

end

/-- LXRD's immediate is its selector's code under eight zeros, and the decoder reads that code (rules R59, R112). -/
theorem decodeSel_eq_some_iff (x : BitVec 3) (sel : LxrdSel) : decodeSel x = some sel ↔ lxrdImm sel = 0#8 ++ x := by
  revert x
  cases sel <;> decide

theorem decodeSel_eq_none_iff : ∀ x : BitVec 3, decodeSel x = none ↔ 6 ≤ x.toNat := by decide

/-- An immediate is LXRD's exactly when its parts are LXRD's. -/
theorem fieldImm_eq_lxrdImm_iff {w : Word} {sel : LxrdSel} :
    fieldImm w = lxrdImm sel ↔ fieldLxrdRsv w = 0 ∧ decodeSel (fieldLow3 w) = some sel := by
  rw [decodeSel_eq_some_iff, fieldLxrdRsv_eq, fieldLow3_eq]
  constructor
  · intro h
    rw [h]
    cases sel <;> decide
  · rintro ⟨hrsv, hsel⟩
    rw [hsel, show 0#8 = _ from hrsv.symm, BitVec.extractLsb'_append_extractLsb'_eq_extractLsb' (by rfl)]
    exact BitVec.extractLsb'_eq_self.symm

section

variable (op : BitVec 6) (rd a b : RegIdx) (sel : LxrdSel)

@[simp] theorem fieldLxrdRsv_lxrdImm : fieldLxrdRsv (assembleWord op rd a b (lxrdImm sel)) = 0 :=
  (fieldImm_eq_lxrdImm_iff.mp (fieldImm_assembleWord ..)).1

@[simp] theorem decodeSel_lxrdImm : decodeSel (fieldLow3 (assembleWord op rd a b (lxrdImm sel))) = some sel :=
  (fieldImm_eq_lxrdImm_iff.mp (fieldImm_assembleWord ..)).2

end

/-! ### The rows of the table (rule R61) -/

@[simp] theorem unreserved_eq_ok_iff {zero : Bool} {i j : Instr} : unreserved zero i = .ok j ↔ zero = true ∧ i = j := by
  cases zero <;> simp [unreserved]

@[simp] theorem unreserved_eq_error_iff {zero : Bool} {i : Instr} {e : DecodeError} :
    unreserved zero i = .error e ↔ zero = false ∧ e = .reservedField := by
  cases zero <;> simp [unreserved, eq_comm]

/-- What a row of rule R61 answers for a word of its OP: the command, when the fields that the row marks "0" are 0, and then
the word is that command's. -/
def IsRowOf (w : Word) (r : Except DecodeError Instr) : Prop :=
  ∃ zero i, r = unreserved zero i ∧ (zero = true → encode i = w)

theorem isRowOf_unreserved {w : Word} {zero : Bool} {i : Instr} (h : zero = true → encode i = w) :
    IsRowOf w (unreserved zero i) := ⟨zero, i, rfl, h⟩

theorem IsRowOf.encode_eq {w : Word} {i : Instr} (h : IsRowOf w (.ok i)) : encode i = w := by
  obtain ⟨zero, j, hr, hj⟩ := h
  obtain ⟨hz, rfl⟩ := unreserved_eq_ok_iff.mp hr.symm
  exact hj hz

/-- A row rejects a word for its reserved fields alone (rule R62). -/
theorem IsRowOf.ne_error {w : Word} {r : Except DecodeError Instr} {e : DecodeError} (h : IsRowOf w r)
    (he : e ≠ .reservedField) : r ≠ .error e := by
  obtain ⟨zero, j, rfl, -⟩ := h
  simp [he]

/-- GATE's words: KIND 5 and up is an unsupported gate, the others have a row each (rules R61, R65). -/
theorem decodeGate_cases {w : Word} (hop : fieldOp w = 0x20) :
    (5 ≤ (fieldLow3 w).toNat ∧ decodeGate w = .error .unsupportedGate) ∨
    ((fieldLow3 w).toNat < 5 ∧ IsRowOf w (decodeGate w)) := by
  unfold decodeGate
  dsimp only
  split
  case h_6 =>
    refine .inl ⟨?_, rfl⟩
    simp only [imp_false] at *
    omega
  all_goals
    rename_i hkind
    refine .inr ⟨by omega, isRowOf_unreserved fun hz => ?_⟩
    obtain ⟨-, hkind⟩ := BitVec.toNat_eq_nat.mp hkind
    simpa [encode, assembleWord_eq_iff, fieldImm_eq_gateImm_iff, hop, hkind, and_assoc, and_comm] using hz

/-- LXRD's words: SEL 6 and 7 is no selector, the others have a row each (rules R61, R66). -/
theorem decodeLxrd_cases {w : Word} (hop : fieldOp w = 0x16) :
    (6 ≤ (fieldLow3 w).toNat ∧ decodeLxrd w = .error .undefinedSelector) ∨
    ((fieldLow3 w).toNat < 6 ∧ IsRowOf w (decodeLxrd w)) := by
  rw [decodeLxrd]
  cases hsel : decodeSel (fieldLow3 w) with
  | none => exact .inl ⟨(decodeSel_eq_none_iff _).mp hsel, rfl⟩
  | some sel =>
    have hlt : ¬ 6 ≤ (fieldLow3 w).toNat := by simp [← decodeSel_eq_none_iff, hsel]
    refine .inr ⟨by omega, isRowOf_unreserved fun hz => ?_⟩
    simpa [encode, assembleWord_eq_iff, fieldImm_eq_lxrdImm_iff, hop, hsel] using hz

/-- The OP values without a row (rules R61, R64). -/
def OpUndefined (op : Nat) : Prop :=
  op ∈ [0x06, 0x07, 0x0B, 0x0C, 0x0D, 0x0E, 0x0F, 0x17, 0x1B, 0x1C, 0x1D, 0x1E, 0x1F] ∨ 0x22 ≤ op

/-- The decoder's choice by OP: no row, GATE's rows, LXRD's rows, or one row. -/
theorem decode_by_op (w : Word) :
    (OpUndefined (fieldOp w).toNat ∧ decode w = .error .undefinedOpcode) ∨
    (fieldOp w = 0x20 ∧ decode w = decodeGate w) ∨
    (fieldOp w = 0x16 ∧ decode w = decodeLxrd w) ∨
    (¬ OpUndefined (fieldOp w).toNat ∧ fieldOp w ≠ 0x20 ∧ fieldOp w ≠ 0x16 ∧ IsRowOf w (decode w)) := by
  unfold decode
  dsimp only
  split
  case h_16 hop => exact .inr (.inr (.inl ⟨BitVec.eq_of_toNat_eq hop, rfl⟩))
  case h_20 hop => exact .inr (.inl ⟨BitVec.eq_of_toNat_eq hop, rfl⟩)
  case h_22 =>
    refine .inl ⟨?_, rfl⟩
    simp only [imp_false, OpUndefined, List.mem_cons, List.not_mem_nil] at *
    omega
  -- A row whose reserved fields are 0 has OP and every field of its command's word.
  all_goals
    rename_i hop
    obtain ⟨-, hop⟩ := BitVec.toNat_eq_nat.mp hop
    have hrow : ¬ OpUndefined (fieldOp w).toNat ∧ fieldOp w ≠ 0x20 ∧ fieldOp w ≠ 0x16 := by simp [hop, OpUndefined]
    obtain ⟨hdef, hgate, hlxrd⟩ := hrow
    refine .inr (.inr (.inr ⟨hdef, hgate, hlxrd, isRowOf_unreserved fun hz => ?_⟩))
    simpa [encode, assembleWord_eq_iff, hop, and_assoc] using hz

/-- Everything the decoder can answer (rule R64): the three rejections, each where the word's OP and its low three bits say so,
or the answer of the word's one row. -/
theorem decode_cases (w : Word) :
    (OpUndefined (fieldOp w).toNat ∧ decode w = .error .undefinedOpcode) ∨
    ((fieldOp w = 0x20 ∧ 5 ≤ (fieldLow3 w).toNat) ∧ decode w = .error .unsupportedGate) ∨
    ((fieldOp w = 0x16 ∧ 6 ≤ (fieldLow3 w).toNat) ∧ decode w = .error .undefinedSelector) ∨
    (¬ OpUndefined (fieldOp w).toNat ∧ ¬ (fieldOp w = 0x20 ∧ 5 ≤ (fieldLow3 w).toNat) ∧
      ¬ (fieldOp w = 0x16 ∧ 6 ≤ (fieldLow3 w).toNat) ∧ IsRowOf w (decode w)) := by
  rcases decode_by_op w with hundef | ⟨hop, hdec⟩ | ⟨hop, hdec⟩ | ⟨hdef, hgate, hlxrd, hrow⟩
  · exact .inl hundef
  · rcases decodeGate_cases hop with ⟨hkind, h⟩ | ⟨hkind, hrow⟩
    · exact .inr (.inl ⟨⟨hop, hkind⟩, hdec.trans h⟩)
    · exact .inr (.inr (.inr ⟨by simp [hop, OpUndefined], by omega, by simp [hop], hdec ▸ hrow⟩))
  · rcases decodeLxrd_cases hop with ⟨hsel, h⟩ | ⟨hsel, hrow⟩
    · exact .inr (.inr (.inl ⟨⟨hop, hsel⟩, hdec.trans h⟩))
    · exact .inr (.inr (.inr ⟨by simp [hop, OpUndefined], by simp [hop], by omega, hdec ▸ hrow⟩))
  · exact .inr (.inr (.inr ⟨hdef, fun h => hgate h.1, fun h => hlxrd h.1, hrow⟩))

/-- Settles O2: a word that decodes has a row, and a row keeps every bit of the word. -/
theorem decodedWordIsTheEncoding : Obligations.DecodedWordIsTheEncoding := by
  intro w i h
  rcases decode_cases w with ⟨-, herr⟩ | ⟨-, herr⟩ | ⟨-, herr⟩ | ⟨-, -, -, hrow⟩
  · simp [herr] at h
  · simp [herr] at h
  · simp [herr] at h
  · exact IsRowOf.encode_eq (h ▸ hrow)

/-- Settles O1: every field of the assembled word is the operand it was made of, and every reserved field is 0. -/
theorem decodeOfEncode : Obligations.DecodeOfEncode := by
  intro i
  cases i with
  | gateAnd | gateOr | gateXor | gateNot | gateId => simp [encode, decode, decodeGate]
  | lxrd => simp [encode, decode, decodeLxrd]
  | nop | vxor | vand | mvmul | rank | minv | graw | gss | gmat | linst | lkey | lenc | ldec | lsub | lisub | share
  | recon | tgen | vclr => simp [encode, decode]

/-- A word that is written out decodes to the command whose word it is. -/
theorem decode_of_encode_eq {w : Word} {i : Instr} (h : encode i = w) : decode w = .ok i := h ▸ decodeOfEncode i

/-- Settles O3: each word is the one that the encoder gives for its command. -/
theorem commandWordsDecode : Obligations.CommandWordsDecode :=
  ⟨decode_of_encode_eq (by decide), decode_of_encode_eq (by decide), decode_of_encode_eq (by decide),
    decode_of_encode_eq (by decide), decode_of_encode_eq (by decide), decode_of_encode_eq (by decide),
    decode_of_encode_eq (by decide)⟩

/-! ### Rejected words (rules R62, R64 to R66) -/

theorem decode_eq_undefinedOpcode_iff {w : Word} :
    decode w = .error .undefinedOpcode ↔ OpUndefined (fieldOp w).toNat := by
  rcases decode_cases w with ⟨h, hd⟩ | ⟨⟨hop, -⟩, hd⟩ | ⟨⟨hop, -⟩, hd⟩ | ⟨h, -, -, hrow⟩
  · exact iff_of_true hd h
  · exact iff_of_false (by simp [hd]) (by simp [hop, OpUndefined])
  · exact iff_of_false (by simp [hd]) (by simp [hop, OpUndefined])
  · exact iff_of_false (hrow.ne_error nofun) h

theorem decode_eq_unsupportedGate_iff {w : Word} :
    decode w = .error .unsupportedGate ↔ fieldOp w = 0x20 ∧ 5 ≤ (fieldLow3 w).toNat := by
  rcases decode_cases w with ⟨h, hd⟩ | ⟨h, hd⟩ | ⟨⟨hop, -⟩, hd⟩ | ⟨-, h, -, hrow⟩
  · exact iff_of_false (by simp [hd]) fun ⟨hop, _⟩ => by simp [hop, OpUndefined] at h
  · exact iff_of_true hd h
  · exact iff_of_false (by simp [hd]) (by simp [hop])
  · exact iff_of_false (hrow.ne_error nofun) h

theorem decode_eq_undefinedSelector_iff {w : Word} :
    decode w = .error .undefinedSelector ↔ fieldOp w = 0x16 ∧ 6 ≤ (fieldLow3 w).toNat := by
  rcases decode_cases w with ⟨h, hd⟩ | ⟨⟨hop, -⟩, hd⟩ | ⟨h, hd⟩ | ⟨-, -, h, hrow⟩
  · exact iff_of_false (by simp [hd]) fun ⟨hop, _⟩ => by simp [hop, OpUndefined] at h
  · exact iff_of_false (by simp [hd]) (by simp [hop])
  · exact iff_of_true hd h
  · exact iff_of_false (hrow.ne_error nofun) h

end Sys2Proof

namespace Sys2Proof.Machine

variable {s : State}

/-- The completion of a word that is no command (rules R70, R73). -/
theorem turnStep_of_decode_error {j : Job} {e : DecodeError} (hp : s.phase = .running j) (hd : decode j.word = .error e) :
    s.turnStep = .next (s.failCommand (decodeErrorCode e)) := by
  simp only [State.turnStep, hp, State.runCommand, hd]

theorem decodeErrorCode_eq (e : DecodeError) :
    decodeErrorCode e = if e = .unsupportedGate then .unsupportedGateOperation else .illegalCommand := by
  cases e <;> rfl

/-- Settles O4: the decoder's answers word by word, and the completion of what it rejects. -/
theorem rejectedWords : Obligations.RejectedWords := by
  refine ⟨fun _ => decode_eq_undefinedOpcode_iff, fun _ => decode_eq_unsupportedGate_iff,
    fun _ => decode_eq_undefinedSelector_iff, fun s j e hp hd => ?_⟩
  rw [turnStep_of_decode_error hp hd, decodeErrorCode_eq, State.failCommand, job_of_running hp]

end Sys2Proof.Machine
end

section
/-! PROOFS. The index check of a command (rule R63): it is a command's first check, and it fails exactly for a command that is
not well formed. -/

namespace Sys2Proof.Machine

variable {s : State}

section

variable (x : RegIdx)

@[simp] theorem decide_lt_size_v : decide (x.toNat < RegFile.v.size s.cfg) = s.okV x := rfl
@[simp] theorem decide_lt_size_m : decide (x.toNat < RegFile.m.size s.cfg) = s.okM x := rfl
@[simp] theorem decide_lt_size_s : decide (x.toNat < RegFile.s.size s.cfg) = s.okS x := rfl
@[simp] theorem decide_lt_size_t : decide (x.toNat < RegFile.t.size s.cfg) = s.okT x := rfl
@[simp] theorem decide_lt_size_ctx : decide (x.toNat < RegFile.ctx.size s.cfg) = s.okC x := rfl

end

/-- Every command with a register field checks its indices first, before anything else is looked at (rules R63, R140). -/
theorem exec_checks_indices_first (i : Instr) (s : State) :
    i.regFields = [] ∨
    ∃ ok cs r, exec i s = complete s (checked ((ok, .illegalCommand) :: cs) r) ∧ i.wellFormed s.cfg = ok := by
  cases i with
  | nop | vclr => exact .inl rfl
  | lxrd d c sel =>
    refine .inr ⟨_, _, _, rfl, ?_⟩
    cases sel <;> simp [Instr.wellFormed, Instr.regFields, LxrdSel.destFile]
  | vxor | vand | mvmul | rank | minv | graw | gss | gmat | linst | lkey | lenc | ldec | lsub | lisub | share | recon | tgen
  | gateAnd | gateOr | gateXor | gateNot | gateId =>
    refine .inr ⟨_, _, _, rfl, ?_⟩
    simp [Instr.wellFormed, Instr.regFields, Bool.and_assoc]

/-- Settles O8: the index check comes before every other check, so nothing else can decide the error. -/
theorem indexOutsideItsFileIsIllegal : Obligations.IndexOutsideItsFileIsIllegal := by
  intro i s hwf
  rcases exec_checks_indices_first i s with hnone | ⟨ok, cs, r, hexec, hok⟩
  · simp [Instr.wellFormed, hnone] at hwf
  · have hfail : firstFail ((ok, .illegalCommand) :: cs) = some .illegalCommand := by simp [← hok, hwf]
    rw [hexec, checked_fail hfail, complete_fail]

end Sys2Proof.Machine
end

section
/-! PROOFS. The engine's control: which command a turn runs and with which true-random bits (rules R70, R73, R113), the
completion of NOP and VCLR (rules R75, R137), and the acceptance of a CMD write (rule R71). -/

namespace Sys2Proof.Machine

variable {s : State} {j : Job} {i : Instr}

/-! ### The turn of the engine (rule R73) -/

/-- The turn with a command in flight executes it. -/
theorem turnStep_of_decode_ok (hp : s.phase = .running j) (hd : decode j.word = .ok i) : s.turnStep = exec i s := by
  simp only [State.turnStep, hp, State.runCommand, hd]

/-- The TRNG's bits do not change which command is in flight. -/
theorem deliver_word (hp : s.phase = .running j) (bits : List Bool) :
    ∃ j', (s.deliver bits).phase = .running j' ∧ j'.word = j.word := by
  rcases deliver_cases s bits with ⟨j₀, hj₀, h⟩ | ⟨hnone, -⟩
  · rw [hp] at hj₀
    cases hj₀
    exact ⟨{ j with trngBits := j.trngBits ++ bits }, congrArg State.phase h, rfl⟩
  · exact absurd hp (hnone j)

theorem autoStep_of_decode_ok (hp : s.phase = .running j) (hd : decode j.word = .ok i) :
    s.autoStep = exec i s.answerTrng := by
  obtain ⟨j', hp', hword⟩ : ∃ j', s.answerTrng.phase = .running j' ∧ j'.word = j.word := deliver_word hp _
  exact turnStep_of_decode_ok hp' (hword ▸ hd)

theorem trngMissing_of_decode_ok (hp : s.phase = .running j) (hd : decode j.word = .ok i) :
    s.trngMissing = trngNeed i s - j.trngBits.length := by
  simp only [State.trngMissing, hp, hd]

/-- The TRNG has nothing to answer when no bit is missing (rule R113). -/
theorem answerTrng_of_trngMissing_zero (h : s.trngMissing = 0) : s.answerTrng = s := by
  rw [State.answerTrng, h]
  exact deliver_nil s

/-! ### Steps at which the engine has its turn (rule R52) -/

theorem step_nil (henv : s.env = []) : step s = s.autoStep := by
  simp only [step, henv]

/-- While the host waits on a busy block its `poll` stays in the script and the engine has its turn. -/
theorem step_poll {rest : List EnvEvent} (henv : s.env = .poll :: rest) (hbusy : s.busy = true) :
    step s = s.autoStep := by
  have hrest : ({ s with env := rest } : State).busy = true := hbusy
  have hback : ({ s with env := .poll :: rest } : State) = s := by rw [← henv]
  simp only [step, henv, State.envStep, hrest, if_true, hback]

theorem step_turn {rest : List EnvEvent} (henv : s.env = .turn :: rest) :
    step s = ({ s with env := rest } : State).turnStep := by
  simp only [step, henv, State.envStep]

/-- Settles O5: an empty script and a waiting host leave the turn to the engine once the TRNG has answered, which changes
nothing when no bit is missing; a scripted turn takes the command as it stands. -/
theorem stepRunsDecodedCommand : Obligations.StepRunsDecodedCommand := by
  intro s j i hp hd
  refine ⟨fun henv => ?_, fun rest henv => ?_⟩
  · have hauto : step s = s.autoStep := by
      rcases henv with hnil | ⟨rest, hpoll⟩
      · exact step_nil hnil
      · exact step_poll hpoll (busy_iff.mpr (by rw [hp]; nofun))
    have hexec : step s = exec i s.answerTrng := hauto.trans (autoStep_of_decode_ok hp hd)
    refine ⟨hexec, fun hbits => ?_⟩
    have hmissing : s.trngMissing = 0 := by rw [trngMissing_of_decode_ok hp hd, Nat.sub_eq_zero_of_le hbits]
    rw [hexec, answerTrng_of_trngMissing_zero hmissing]
  · exact (step_turn henv).trans (turnStep_of_decode_ok hp hd)

/-! ### NOP and VCLR -/

/-- NOP makes no write before its completion (rule R75). -/
theorem exec_nop (s : State) : exec .nop s = .next s.retire := rfl

/-- VCLR empties the view buffer of every party and resets their pointer (rule R137). -/
theorem exec_vclr (s : State) : exec .vclr s = .next (s.putViews (List.replicate s.cfg.pmax []) 0).retire := rfl

/-- Every word of an empty view buffer reads 0 (rule R48). -/
theorem viewWord_nil (w : Nat) : viewWord [] w = 0 := by
  refine BitVec.eq_of_getLsbD_eq fun k hk => ?_
  rw [getLsbD_viewWord [] w hk, bitAt_nil]
  exact BitVec.getLsbD_zero.symm

/-- Settles O13: NOP retires the state as it is, VCLR after emptying the views. -/
theorem nopAndVclrResult : Obligations.NopAndVclrResult := by
  intro s
  refine ⟨⟨_, exec_nop s, rfl⟩, ⟨_, exec_vclr s, rfl, List.length_replicate, fun v hv w => ?_⟩⟩
  have hempty : v = [] := List.eq_of_mem_replicate hv
  rw [hempty, viewWord_nil]

/-! ### The acceptance of a command (rule R71) -/

theorem writeCmd_of_err_none (x : Word) (h : s.err = none) : s.writeCmd x = s.accept x := by
  simp [State.writeCmd, h]

theorem writeCmd_of_err_ne_none (x : Word) (h : s.err ≠ none) : s.writeCmd x = s.setDrop := by
  simp [State.writeCmd, Option.isSome_iff_ne_none.mpr h]

theorem hostReg_cmd (p : Params) : hostReg p 0x024 = some .cmd := rfl

theorem memWrite_cmd_idle (x : Word) (hp : s.phase = .idle) : s.memWrite 0x024 4 x = .next (s.writeCmd x) :=
  memWrite_idle x (hostReg_cmd s.cfg) rfl (by decide) hp

theorem memWrite_cmd (s : State) (x : Word) : s.memWrite 0x024 4 x = .next (s.writeHost (some .cmd) x) := by
  rw [memWrite_aligned rfl (by decide), hostReg_cmd]

/-- CMD is one of the registers whose writes set DROP while a command is in flight (rules R50, R71). -/
theorem writeHost_cmd_running (hp : s.phase = .running j) (x : Word) : s.writeHost (some .cmd) x = s.setDrop := by
  rw [writeHost_running (r := some .cmd) hp nofun nofun]
  exact if_pos rfl

/-- Settles O43, phase by phase. -/
theorem commandAcceptance : Obligations.CommandAcceptance := by
  intro s x
  refine ⟨fun hp herr => ?idle, fun hp herr => ?error, fun j hp => ?running, fun hp => ?clearing⟩
  case idle =>
    rw [memWrite_cmd_idle x hp, writeCmd_of_err_none x herr]
    rfl
  case error =>
    rw [memWrite_cmd_idle x hp, writeCmd_of_err_ne_none x herr]
    rfl
  case running =>
    rw [memWrite_cmd, writeHost_cmd_running hp]
    rfl
  case clearing =>
    rw [memWrite_cmd, writeHost_clearing hp]

end Sys2Proof.Machine
end

section
/-! PROOFS. The rows of a matrix value as a matrix over the field with two elements (rules R7 to R10), the products of rules R9
and R79 as matrix products, and a row operation of the eliminations of rules R80 and R83 as the product with an invertible
matrix. -/

namespace Sys2Proof.Machine

open Matrix

/-! ### Bits as elements of the field -/

/-- A bit as an element of the field with two elements. -/
def toF2 (b : Bool) : ZMod 2 := if b then 1 else 0

@[simp] theorem toF2_false : toF2 false = 0 := rfl
@[simp] theorem toF2_true : toF2 true = 1 := rfl

theorem toF2_xor : ∀ a b : Bool, toF2 (xor a b) = toF2 a + toF2 b := by decide

theorem toF2_and : ∀ a b : Bool, toF2 (a && b) = toF2 a * toF2 b := by decide

theorem toF2_injective : Function.Injective toF2 := by decide

theorem toF2_parity (v : Vec) : toF2 (parity v) = (v.map toF2).sum := by
  induction v with
  | nil => rfl
  | cons b v ih => rw [parity_cons, toF2_xor, ih, List.map_cons, List.sum_cons]

/-- A parity over a range of indices is a sum in the field (rule R10). -/
theorem toF2_parity_range (n : ℕ) (f : ℕ → Bool) : toF2 (parity ((List.range n).map f)) = ∑ k : Fin n, toF2 (f k) := by
  rw [toF2_parity, List.map_map, ← Finset.sum_range fun k => toF2 (f k)]
  rfl

theorem bitAt_map_range {n : ℕ} (f : ℕ → Bool) {i : ℕ} (hi : i < n) : bitAt ((List.range n).map f) i = f i := by
  simp [bitAt, hi]

theorem vecAnd_eq_map_range {n : ℕ} {u w : Vec} (hu : u.length = n) (hw : w.length = n) :
    vecAnd u w = (List.range n).map fun j => bitAt u j && bitAt w j := by
  refine vec_ext (by simp [hu, hw]) fun j hj => ?_
  have hj' : j < n := by simpa [hu, hw] using hj
  rw [bitAt_vecAnd, bitAt_map_range _ hj']

/-! ### Rows of one length -/

/-- `R` rows of length `C`, as the eliminations keep them. -/
structure Grid (R C : ℕ) (W : List Vec) : Prop where
  length : W.length = R
  rows : RowsOf C W

theorem Mat.Shape.grid {R C : ℕ} {A : Mat} (h : A.Shape R C) : Grid R C A.row := by
  obtain ⟨-, -, hlen, hrow⟩ := h
  exact ⟨hlen, hrow⟩

theorem identityRows_grid (n : ℕ) : Grid n n (identityRows n) :=
  ⟨length_identityRows n, fun _ hw => length_of_mem_identityRows hw⟩

/-- Bit `j` of row `i`, 0 outside the rows. -/
def bitIn (W : List Vec) (i j : ℕ) : Bool := bitAt (W.getD i []) j

/-- Outside a grid every bit is 0. -/
theorem Grid.bitIn_outside {R C : ℕ} {W : List Vec} (h : Grid R C W) {i j : ℕ} (hij : R ≤ i ∨ C ≤ j) :
    bitIn W i j = false := by
  by_cases hi : i < W.length
  · have hC : C ≤ j := hij.resolve_left (by rw [← h.length]; omega)
    exact bitAt_of_le ((h.rows.getD hi).trans_le hC)
  · simp [bitIn, Nat.le_of_not_lt hi]

theorem bitIn_map_range {n : ℕ} (f : ℕ → Vec) {i : ℕ} (hi : i < n) (j : ℕ) :
    bitIn ((List.range n).map f) i j = bitAt (f i) j := by
  simp [bitIn, hi]

theorem bitIn_identityRows {n i j : ℕ} (hi : i < n) (hj : j < n) : bitIn (identityRows n) i j = decide (i = j) := by
  rw [identityRows, bitIn_map_range _ hi, bitAt_map_range _ hj]

/-! ### Rows as a matrix over the field -/

/-- The rows as a matrix over the field with two elements. -/
def entries (R C : ℕ) (W : List Vec) : Matrix (Fin R) (Fin C) (ZMod 2) := .of fun i j => toF2 (bitIn W i j)

@[simp] theorem entries_apply {R C : ℕ} (W : List Vec) (i : Fin R) (j : Fin C) :
    entries R C W i j = toF2 (bitIn W i j) := rfl

theorem row_entries (A : Mat) : (entries A.rows A.cols A.row).row = rowVector A := rfl

/-- Rows of one shape are given by their entries. -/
theorem Grid.ext {R C : ℕ} {W W' : List Vec} (h : Grid R C W) (h' : Grid R C W') (he : entries R C W = entries R C W') :
    W = W' := by
  refine List.ext_getElem (h.length.trans h'.length.symm) fun i hi hi' => ?_
  have hlen : W[i].length = C := h.rows _ (List.getElem_mem hi)
  have hlen' : W'[i].length = C := h'.rows _ (List.getElem_mem hi')
  refine vec_ext (hlen.trans hlen'.symm) fun j hj => ?_
  have hij := congrFun (congrFun he ⟨i, h.length ▸ hi⟩) ⟨j, hlen ▸ hj⟩
  simpa [bitIn, hi, hi'] using toF2_injective hij

theorem Mat.Shape.ext {R C : ℕ} {A B : Mat} (hA : A.Shape R C) (hB : B.Shape R C)
    (he : entries R C A.row = entries R C B.row) : A = B := by
  have hrow : A.row = B.row := hA.grid.ext hB.grid he
  cases A
  cases B
  obtain ⟨rfl, rfl, -, -⟩ := hA
  obtain ⟨rfl, rfl, -, -⟩ := hB
  cases hrow
  rfl

theorem entries_identityRows (n : ℕ) : entries n n (identityRows n) = 1 := by
  ext i j
  rw [entries_apply, bitIn_identityRows i.2 j.2, one_apply]
  simp [toF2, Fin.ext_iff]

/-! ### The products of rules R9, R79 and R84 -/

theorem matMul_shape {R K C : ℕ} {A B : Mat} (hA : A.Shape R K) (hB : B.Shape K C) : (matMul A B).Shape R C := by
  obtain ⟨rfl, -, -, -⟩ := hA
  obtain ⟨-, rfl, -, -⟩ := hB
  refine ⟨rfl, rfl, by simp [matMul], fun w hw => ?_⟩
  simp only [matMul, List.mem_map] at hw
  obtain ⟨r, -, rfl⟩ := hw
  simp

theorem matIdentity_shape (n : ℕ) : (matIdentity n).Shape n n :=
  ⟨rfl, rfl, (identityRows_grid n).length, (identityRows_grid n).rows⟩

theorem entries_matMul {R K C : ℕ} {A B : Mat} (hA : A.Shape R K) (hB : B.Shape K C) :
    entries R C (matMul A B).row = entries R K A.row * entries K C B.row := by
  obtain ⟨rfl, rfl, -, -⟩ := hA
  obtain ⟨-, rfl, -, -⟩ := hB
  ext r j
  rw [entries_apply, matMul, bitIn_map_range _ r.2, bitAt_map_range _ j.2, toF2_parity_range, mul_apply]
  simp only [toF2_and]
  rfl

/-- A vector value over the field. -/
def column (C : ℕ) (v : Vec) : Fin C → ZMod 2 := fun j => toF2 (bitAt v j)

theorem column_ext {C : ℕ} {u w : Vec} (hu : u.length = C) (hw : w.length = C) (h : column C u = column C w) : u = w :=
  vec_ext (hu.trans hw.symm) fun j hj => toF2_injective (congrFun h ⟨j, hu ▸ hj⟩)

theorem bitAt_matVecMul {A : Mat} {R C : ℕ} (h : A.Shape R C) {v : Vec} (hv : v.length = C) {r : ℕ} (hr : r < R) :
    bitAt (matVecMul A v) r = parity ((List.range C).map fun j => bitIn A.row r j && bitAt v j) := by
  have hr' : r < A.row.length := h.grid.length.symm ▸ hr
  have hlen : (A.row.getD r []).length = C := h.grid.rows.getD hr'
  have hrow : bitAt (matVecMul A v) r = parity (vecAnd (A.row.getD r []) v) := by
    simp [bitAt, matVecMul, hr']
  rw [hrow, vecAnd_eq_map_range hlen hv]
  rfl

theorem column_matVecMul {A : Mat} {R C : ℕ} (h : A.Shape R C) {v : Vec} (hv : v.length = C) :
    column R (matVecMul A v) = entries R C A.row *ᵥ column C v := by
  ext r
  rw [column, bitAt_matVecMul h hv r.2, toF2_parity_range]
  simp only [toF2_and]
  rfl

/-! ### Row operations -/

theorem bitIn_swapRows {W : List Vec} {p q : ℕ} (hp : p < W.length) (hq : q < W.length) (i j : ℕ) :
    bitIn (swapRows W p q) i j = bitIn W (Equiv.swap p q i) j := by
  have hlen : q < (W.set p (W.getD q [])).length := by simpa using hq
  by_cases hiq : i = q
  · subst hiq
    rw [Equiv.swap_apply_right, bitIn, swapRows, getD_set_self hlen, bitIn]
  · by_cases hip : i = p
    · subst hip
      rw [Equiv.swap_apply_left, bitIn, swapRows, getD_set_of_ne hiq, getD_set_self hp, bitIn]
    · rw [Equiv.swap_apply_of_ne_of_ne hip hiq, bitIn, swapRows, getD_set_of_ne hiq, getD_set_of_ne hip, bitIn]

theorem bitIn_addRowWhere {C : ℕ} {W : List Vec} (hW : RowsOf C W) (sel : ℕ → Bool) {p i : ℕ} (hp : p < W.length)
    (hi : i < W.length) (j : ℕ) : bitIn (addRowWhere sel p W W) i j = xor (bitIn W i j) (sel i && bitIn W p j) := by
  have hlen : (W.getD i []).length = (W.getD p []).length := (hW.getD hi).trans (hW.getD hp).symm
  have hrow : (addRowWhere sel p W W).getD i [] = if sel i then vecXor (W.getD i []) (W.getD p []) else W.getD i [] := by
    simp [addRowWhere, hi]
  rw [bitIn, hrow]
  cases sel i
  · simp [bitIn]
  · rw [if_pos rfl, bitAt_vecXor hlen, Bool.true_and, bitIn, bitIn]

theorem swapRows_self (W : List Vec) (p : ℕ) : swapRows W p p = W := by
  by_cases hp : p < W.length
  · simp [swapRows, hp]
  · simp [swapRows, List.set_eq_of_length_le (Nat.le_of_not_lt hp)]

/-- The operation of one column of an elimination: rows `p` and `q` are swapped, then the new row `p` is added to every
selected row (rules R80, R83). -/
def eliminate (sel : ℕ → Bool) (p q : ℕ) (W : List Vec) : List Vec :=
  addRowWhere sel p (swapRows W p q) (swapRows W p q)

theorem Grid.eliminate {R C : ℕ} {W : List Vec} (h : Grid R C W) (sel : ℕ → Bool) {p q : ℕ} (hp : p < R) (hq : q < R) :
    Grid R C (eliminate sel p q W) := by
  rw [← h.length] at hp hq
  have hswap : RowsOf C (swapRows W p q) := h.rows.swapRows hp hq
  refine ⟨?_, hswap.addRowWhere hswap (by simpa using hp)⟩
  rw [Machine.eliminate, length_addRowWhere, length_swapRows, h.length]

theorem bitIn_eliminate {R C : ℕ} {W : List Vec} (h : Grid R C W) (sel : ℕ → Bool) {p q i : ℕ} (hp : p < R) (hq : q < R)
    (hi : i < R) (j : ℕ) :
    bitIn (eliminate sel p q W) i j = xor (bitIn W (Equiv.swap p q i) j) (sel i && bitIn W q j) := by
  rw [← h.length] at hp hq hi
  rw [eliminate, bitIn_addRowWhere (h.rows.swapRows hp hq) sel (by simpa using hp) (by simpa using hi),
    bitIn_swapRows hp hq, bitIn_swapRows hp hq, Equiv.swap_apply_left]

/-- The matrix of a row operation. -/
def eliminationMatrix {R : ℕ} (sel : ℕ → Bool) (p q : Fin R) : Matrix (Fin R) (Fin R) (ZMod 2) :=
  (1 + vecMulVec (fun i : Fin R => toF2 (sel i)) (Pi.single p 1)) * (Equiv.swap p q).permMatrix (ZMod 2)

/-- A row operation is the product with its matrix. -/
theorem entries_eliminate {R C : ℕ} {W : List Vec} (h : Grid R C W) (sel : ℕ → Bool) (p q : Fin R) :
    entries R C (eliminate sel p q W) = eliminationMatrix sel p q * entries R C W := by
  ext i j
  have hswap : ((Equiv.swap p q i : Fin R) : ℕ) = Equiv.swap (p : ℕ) q i := by
    rw [Equiv.swap_apply_def, Equiv.swap_apply_def]
    simp only [Fin.ext_iff]
    split_ifs <;> rfl
  rw [entries_apply, bitIn_eliminate h sel p.2 q.2 i.2, eliminationMatrix, Matrix.mul_assoc,
    PEquiv.toMatrix_toPEquiv_mul, Matrix.add_mul, Matrix.one_mul, vecMulVec_mul, toF2_xor, toF2_and, ← hswap]
  simp [vecMulVec_apply]

/-- A row operation that does not add row `p` to itself is invertible. -/
theorem isUnit_det_eliminationMatrix {R : ℕ} {sel : ℕ → Bool} {p : Fin R} (q : Fin R) (hp : sel p = false) :
    IsUnit (eliminationMatrix sel p q).det := by
  have hsquare : vecMulVec (fun i : Fin R => toF2 (sel i)) (Pi.single p 1) ^ 2 = 0 := by
    simp [pow_two, vecMulVec_mul_vecMulVec, hp]
  have hadd : IsUnit (1 + vecMulVec (fun i : Fin R => toF2 (sel i)) (Pi.single p 1)) :=
    IsNilpotent.isUnit_one_add ⟨2, hsquare⟩
  have hswap : IsUnit ((Equiv.swap p q).permMatrix (ZMod 2)).det := by
    rw [det_permutation]
    exact (Equiv.Perm.sign (Equiv.swap p q)).isUnit.map (Int.castRingHom (ZMod 2))
  rw [eliminationMatrix, det_mul]
  exact ((isUnit_iff_isUnit_det _).mp hadd).mul hswap

end Sys2Proof.Machine
end

section
/-! PROOFS. What one column of the eliminations of rules R80 and R83 does to the rows' bits, and the rank: the elimination of
rule R80 ends in as many pivot rows as the rows' span has dimensions (rule R81). -/

namespace Sys2Proof.Machine

open Matrix

/-! ### One pivot -/

/-- The rows below row `p` with a 1 in the column. -/
def belowPivot (p col : ℕ) (W : List Vec) (i : ℕ) : Bool := decide (p < i) && bitIn W i col

/-- The operation at the pivot `(q, col)`: row `q` comes to row `p` and clears the column below it (rules R80, R83). -/
def pivotStep (p col q : ℕ) (W : List Vec) : List Vec := eliminate (belowPivot p col (swapRows W p q)) p q W

theorem belowPivot_self (p col : ℕ) (W : List Vec) : belowPivot p col W p = false := by
  simp [belowPivot]

section

variable {R C p q col : ℕ} {W : List Vec}

theorem bitIn_of_findPivot (hq : findPivot W col p = some q) : bitIn W q col = true := by
  obtain ⟨-, -, hbit⟩ := findPivot_spec hq
  exact hbit

theorem pivot_lt (h : Grid R C W) (hq : findPivot W col p = some q) : p < R ∧ q < R := by
  obtain ⟨hpq, hlt, -⟩ := findPivot_spec hq
  rw [h.length] at hlt
  exact ⟨hpq.trans_lt hlt, hlt⟩

theorem Grid.pivotStep (h : Grid R C W) (hq : findPivot W col p = some q) : Grid R C (pivotStep p col q W) :=
  h.eliminate _ (pivot_lt h hq).1 (pivot_lt h hq).2

variable (h : Grid R C W) (hq : findPivot W col p = some q)
include h hq

/-- The rows above the pivot row stay. -/
theorem bitIn_pivotStep_above {i : ℕ} (hi : i < p) (j : ℕ) : bitIn (pivotStep p col q W) i j = bitIn W i j := by
  obtain ⟨hp, hqR⟩ := pivot_lt h hq
  obtain ⟨hpq, -, -⟩ := findPivot_spec hq
  have hsel : belowPivot p col (swapRows W p q) i = false := by simp [belowPivot, hi.le]
  rw [Machine.pivotStep, bitIn_eliminate h _ hp hqR (hi.trans hp), hsel,
    Equiv.swap_apply_of_ne_of_ne hi.ne (hi.trans_le hpq).ne, Bool.false_and, Bool.xor_false]

/-- The pivot row is the row that was found. -/
theorem bitIn_pivotStep_pivot (j : ℕ) : bitIn (pivotStep p col q W) p j = bitIn W q j := by
  obtain ⟨hp, hqR⟩ := pivot_lt h hq
  rw [Machine.pivotStep, bitIn_eliminate h _ hp hqR hp, belowPivot_self, Equiv.swap_apply_left, Bool.false_and,
    Bool.xor_false]

theorem bitIn_pivotStep_pivot_col : bitIn (pivotStep p col q W) p col = true :=
  (bitIn_pivotStep_pivot h hq col).trans (bitIn_of_findPivot hq)

/-- The column is cleared below the pivot row. -/
theorem bitIn_pivotStep_below {i : ℕ} (hpi : p < i) (hi : i < R) : bitIn (pivotStep p col q W) i col = false := by
  obtain ⟨hp, hqR⟩ := pivot_lt h hq
  have hone : bitIn W q col = true := bitIn_of_findPivot hq
  rw [Machine.pivotStep, bitIn_eliminate h _ hp hqR hi, belowPivot,
    bitIn_swapRows (h.length ▸ hp) (h.length ▸ hqR), hone]
  simp [hpi]

/-- A column that is zero from row `p` on stays so. -/
theorem bitIn_pivotStep_of_zero {j : ℕ} (hzero : ∀ i, p ≤ i → bitIn W i j = false) {i : ℕ} (hpi : p ≤ i) (hi : i < R) :
    bitIn (pivotStep p col q W) i j = false := by
  obtain ⟨hp, hqR⟩ := pivot_lt h hq
  obtain ⟨hpq, -, -⟩ := findPivot_spec hq
  have hswap : p ≤ Equiv.swap p q i := by
    rw [Equiv.swap_apply_def]
    split_ifs <;> omega
  rw [Machine.pivotStep, bitIn_eliminate h _ hp hqR hi, hzero _ hswap, hzero q hpq, Bool.and_false, Bool.xor_false]

end

/-- Where no pivot is found the column is zero from row `p` on. -/
theorem bitIn_eq_false_of_findPivot_none {R C p col : ℕ} {W : List Vec} (h : Grid R C W)
    (hq : findPivot W col p = none) {i : ℕ} (hi : p ≤ i) : bitIn W i col = false := by
  by_cases hlen : i < W.length
  · exact findPivot_none hq hi hlen
  · exact h.bitIn_outside (.inl (by rw [← h.length]; omega))

/-! ### The rank -/

/-- The elimination of rule R80 with `p` pivot rows and the columns from `c` up behind it: below the pivot rows these columns
are zero, and the pivot rows are linearly independent on them. -/
structure Echelon (R c p : ℕ) (W : List Vec) : Prop where
  le : p ≤ R
  below : ∀ i j, p ≤ i → c ≤ j → bitIn W i j = false
  independent : ∀ g : Fin p → ZMod 2, (∀ j, c ≤ j → ∑ i, g i * toF2 (bitIn W i j) = 0) → g = 0

theorem Echelon.start {R C : ℕ} {W : List Vec} (h : Grid R C W) : Echelon R C 0 W where
  le := Nat.zero_le R
  below _ _ _ hj := h.bitIn_outside (.inr hj)
  independent _ _ := Subsingleton.elim _ _

/-- A further column that is zero below the pivot rows needs no operation. -/
theorem Echelon.skip {R c p : ℕ} {W : List Vec} (h : Echelon R (c + 1) p W) (hzero : ∀ i, p ≤ i → bitIn W i c = false) :
    Echelon R c p W where
  le := h.le
  below i j hi hj := by
    rcases hj.eq_or_lt with rfl | hj'
    · exact hzero i hi
    · exact h.below i j hi hj'
  independent g hg := h.independent g fun j hj => hg j (by omega)

/-- A pivot of the column gives one more pivot row. -/
theorem Echelon.pivot {R C c p q : ℕ} {W : List Vec} (h : Echelon R (c + 1) p W) (hW : Grid R C W)
    (hq : findPivot W c p = some q) : Echelon R c (p + 1) (pivotStep p c q W) where
  le := (pivot_lt hW hq).1
  below i j hi hj := by
    by_cases hiR : i < R
    · rcases hj.eq_or_lt with rfl | hj'
      · exact bitIn_pivotStep_below hW hq hi hiR
      · exact bitIn_pivotStep_of_zero hW hq (fun i hi => h.below i j hi hj') (by omega) hiR
    · exact (hW.pivotStep hq).bitIn_outside (.inl (Nat.le_of_not_lt hiR))
  independent g hg := by
    have hsplit : ∀ j, c ≤ j →
        ∑ i : Fin p, g i.castSucc * toF2 (bitIn W i j) + g (Fin.last p) * toF2 (bitIn W q j) = 0 := by
      intro j hj
      have hsum := hg j hj
      rw [Fin.sum_univ_castSucc, Fin.val_last, bitIn_pivotStep_pivot hW hq] at hsum
      simpa only [Fin.val_castSucc, bitIn_pivotStep_above hW hq (Fin.is_lt _)] using hsum
    have hold : (fun i : Fin p => g i.castSucc) = 0 := by
      refine h.independent _ fun j hj => ?_
      have hrow : bitIn W q j = false := h.below q j (findPivot_spec hq).1 hj
      simpa [hrow] using hsplit j (by omega)
    have hnew : g (Fin.last p) = 0 := by
      have hone : bitIn W q c = true := bitIn_of_findPivot hq
      simpa [hone, fun i => congrFun hold i] using hsplit c le_rfl
    funext i
    exact Fin.lastCases hnew (fun i => congrFun hold i) i

/-- The first `p` rows over the field. -/
def pivotRow (C p : ℕ) (W : List Vec) : Fin p → Fin C → ZMod 2 := fun i j => toF2 (bitIn W i j)

/-- After the last column the pivot rows are linearly independent. -/
theorem Echelon.linearIndependent {R C p : ℕ} {W : List Vec} (h : Echelon R 0 p W) (hW : Grid R C W) :
    LinearIndependent (ZMod 2) (pivotRow C p W) := by
  refine Fintype.linearIndependent_iff.mpr fun g hg => congrFun (h.independent g fun j _ => ?_)
  by_cases hj : j < C
  · simpa [pivotRow] using congrFun hg ⟨j, hj⟩
  · refine Finset.sum_eq_zero fun i _ => ?_
    rw [hW.bitIn_outside (.inr (Nat.le_of_not_lt hj)), toF2_false, mul_zero]

/-- After the last column the rows below the pivot rows are zero, so the pivot rows span what all rows span. -/
theorem Echelon.span_eq {R p : ℕ} {W : List Vec} (h : Echelon R 0 p W) (C : ℕ) :
    Submodule.span (ZMod 2) (Set.range (entries R C W).row) = Submodule.span (ZMod 2) (Set.range (pivotRow C p W)) := by
  refine le_antisymm (Submodule.span_le.mpr ?_) (Submodule.span_mono ?_)
  · rintro _ ⟨i, rfl⟩
    by_cases hi : (i : ℕ) < p
    · exact Submodule.subset_span ⟨⟨i, hi⟩, rfl⟩
    · have hzero : (entries R C W).row i = 0 := by
        funext j
        simp [h.below i j (Nat.le_of_not_lt hi) (Nat.zero_le _)]
      rw [hzero]
      exact Submodule.zero_mem _
  · rintro _ ⟨i, rfl⟩
    exact ⟨Fin.castLE h.le i, rfl⟩

theorem Echelon.rank_eq {R C p : ℕ} {W : List Vec} (h : Echelon R 0 p W) (hW : Grid R C W) : (entries R C W).rank = p := by
  rw [rank_eq_finrank_span_row, h.span_eq C, finrank_span_eq_card (h.linearIndependent hW), Fintype.card_fin]

/-- A pivot step is invertible, so it keeps the rank. -/
theorem rank_pivotStep {R C p q col : ℕ} {W : List Vec} (h : Grid R C W) (hq : findPivot W col p = some q) :
    (entries R C (pivotStep p col q W)).rank = (entries R C W).rank := by
  obtain ⟨hp, hqR⟩ := pivot_lt h hq
  rw [pivotStep, entries_eliminate h _ ⟨p, hp⟩ ⟨q, hqR⟩]
  exact rank_mul_eq_right_of_isUnit_det _ _ (isUnit_det_eliminationMatrix _ (belowPivot_self p col _))

/-- What the elimination of rule R80 keeps: the sizes, the echelon form so far, and the rank `ρ` of the rows. -/
structure RankInv (R C ρ c : ℕ) (st : List Vec × ℕ) : Prop where
  grid : Grid R C st.1
  echelon : Echelon R c st.2 st.1
  rank : (entries R C st.1).rank = ρ

theorem rankStep_of_full {R : ℕ} {st : List Vec × ℕ} (hp : st.2 = R) (col : ℕ) : rankStep R st col = st := by
  rw [rankStep, if_pos hp]

theorem rankStep_of_none {R col : ℕ} {st : List Vec × ℕ} (hq : findPivot st.1 col st.2 = none) :
    rankStep R st col = st := by
  simp only [rankStep, hq, ite_self]

theorem rankStep_of_pivot {R col q : ℕ} {st : List Vec × ℕ} (hp : st.2 ≠ R) (hq : findPivot st.1 col st.2 = some q) :
    rankStep R st col = (pivotStep st.2 col q st.1, st.2 + 1) := by
  simp only [rankStep, if_neg hp, hq]
  rfl

theorem rankStep_keeps {R C ρ c : ℕ} {st : List Vec × ℕ} (h : RankInv R C ρ (c + 1) st) :
    RankInv R C ρ c (rankStep R st c) := by
  by_cases hp : st.2 = R
  · rw [rankStep_of_full hp]
    exact ⟨h.grid, h.echelon.skip fun i hi => h.grid.bitIn_outside (.inl (hp.symm.trans_le hi)), h.rank⟩
  cases hq : findPivot st.1 c st.2 with
  | none =>
    rw [rankStep_of_none hq]
    exact ⟨h.grid, h.echelon.skip fun i hi => bitIn_eq_false_of_findPivot_none h.grid hq hi, h.rank⟩
  | some q =>
    rw [rankStep_of_pivot hp hq]
    exact ⟨h.grid.pivotStep hq, h.echelon.pivot h.grid hq, (rank_pivotStep h.grid hq).trans h.rank⟩

theorem foldl_rankStep_keeps {R C ρ : ℕ} (c : ℕ) {st : List Vec × ℕ} (h : RankInv R C ρ c st) :
    RankInv R C ρ 0 ((List.range c).reverse.foldl (rankStep R) st) := by
  induction c generalizing st with
  | zero => exact h
  | succ c ih =>
    rw [List.range_succ, List.reverse_append, List.reverse_singleton, List.singleton_append, List.foldl_cons]
    exact ih (rankStep_keeps h)

/-- The elimination of rule R80 computes the rank of the matrix over the field. -/
theorem matRank_eq_rank {R C : ℕ} {A : Mat} (h : A.Shape R C) : matRank A = (entries R C A.row).rank := by
  have hstart : RankInv R C (entries R C A.row).rank C (A.row, 0) := ⟨h.grid, .start h.grid, rfl⟩
  obtain ⟨rfl, rfl, -, -⟩ := h
  have hend := foldl_rankStep_keeps _ hstart
  exact (hend.echelon.rank_eq hend.grid).symm.trans hend.rank

theorem matRank_le_rows {R C : ℕ} {A : Mat} (h : A.Shape R C) : matRank A ≤ R :=
  (matRank_eq_rank h).trans_le (rank_le_height _)

theorem matRank_le_cols {R C : ℕ} {A : Mat} (h : A.Shape R C) : matRank A ≤ C :=
  (matRank_eq_rank h).trans_le (rank_le_width _)

theorem matRank_eq_finrank {R C : ℕ} {A : Mat} (h : A.Shape R C) :
    matRank A = Module.finrank (ZMod 2) (Submodule.span (ZMod 2) (Set.range (rowVector A))) := by
  rw [matRank_eq_rank h]
  obtain ⟨rfl, rfl, -, -⟩ := h
  rw [rank_eq_finrank_span_row, row_entries]

/-- A matrix register's value depends on its declared region only (rule R16). -/
theorem mat_congr {s s' : State} {a : RegIdx} (hrows : (s.mreg a).rows = (s'.mreg a).rows)
    (hcols : (s.mreg a).cols = (s'.mreg a).cols)
    (hbits : ∀ r j, r < (s.mreg a).rows → j < (s.mreg a).cols →
      ((s.mreg a).bits.getD r 0).getLsbD j = ((s'.mreg a).bits.getD r 0).getLsbD j) : s.mat a = s'.mat a := by
  have hrow : (s.mat a).row = (s'.mat a).row := by
    simp only [State.mat, ← hrows, ← hcols]
    refine List.map_congr_left fun r hr => List.map_congr_left fun j hj => ?_
    exact hbits r j (List.mem_range.mp hr) (List.mem_range.mp hj)
  simp only [State.mat] at hrow ⊢
  rw [hrow, hrows, hcols]

/-- Settles O16: the rank is the rank over the field, hence the dimension of the rows' span, and a register's value, hence its
rank, does not see the storage outside its region. -/
theorem rankIsDimensionOfRowSpan : Obligations.RankIsDimensionOfRowSpan := by
  refine ⟨fun R C A h => ⟨matRank_eq_finrank h, le_min (matRank_le_rows h) (matRank_le_cols h)⟩, ?_⟩
  intro s s' a hrows hcols hbits
  rw [mat_congr hrows hcols hbits]

end Sys2Proof.Machine
end

section
/-! PROOFS. The elimination of rule R83: run on a square matrix of full rank it turns the matrix into the identity, and the
companion rows, which take the same operations, into its two-sided inverse (rule R84). -/

namespace Sys2Proof.Machine

open Matrix

/-! ### The two phases of the elimination -/

theorem forwardStep_of_pivot {col q : ℕ} {st : List Vec × List Vec} (hq : findPivot st.1 col col = some q) :
    forwardStep st col = (pivotStep col col q st.1, eliminate (belowPivot col col (swapRows st.1 col q)) col q st.2) := by
  simp only [forwardStep, hq]
  rfl

/-- The rows above row `col` with a 1 in the column. -/
def aboveDiagonal (col : ℕ) (W : List Vec) (i : ℕ) : Bool := decide (i < col) && bitIn W i col

/-- A step of the back-substitution is a row operation that swaps nothing. -/
theorem backStep_eq (st : List Vec × List Vec) (col : ℕ) :
    backStep st col =
      (eliminate (aboveDiagonal col st.1) col col st.1, eliminate (aboveDiagonal col st.1) col col st.2) := by
  simp only [eliminate, swapRows_self]
  rfl

/-- What both phases keep of the working rows and the companion rows: the sizes, that the companion rows hold the product of
the operations made so far on the rows `A`, and that this product is invertible. -/
structure Companion (N : ℕ) (A : List Vec) (st : List Vec × List Vec) : Prop where
  work : Grid N N st.1
  comp : Grid N N st.2
  product : entries N N st.1 = entries N N st.2 * entries N N A
  unit : IsUnit (entries N N st.2).det

theorem Companion.start {N : ℕ} {A : List Vec} (h : Grid N N A) : Companion N A (A, identityRows N) where
  work := h
  comp := identityRows_grid N
  product := by rw [entries_identityRows, Matrix.one_mul]
  unit := by rw [entries_identityRows, det_one]; exact isUnit_one

/-- One row operation on both keeps the relation. -/
theorem Companion.eliminate {N : ℕ} {A : List Vec} {st : List Vec × List Vec} (h : Companion N A st) {sel : ℕ → Bool}
    {p q : ℕ} (hp : p < N) (hq : q < N) (hsel : sel p = false) :
    Companion N A (eliminate sel p q st.1, eliminate sel p q st.2) where
  work := h.work.eliminate sel hp hq
  comp := h.comp.eliminate sel hp hq
  product := by
    rw [entries_eliminate h.work sel ⟨p, hp⟩ ⟨q, hq⟩, entries_eliminate h.comp sel ⟨p, hp⟩ ⟨q, hq⟩, h.product,
      Matrix.mul_assoc]
  unit := by
    rw [entries_eliminate h.comp sel ⟨p, hp⟩ ⟨q, hq⟩, det_mul]
    exact (isUnit_det_eliminationMatrix (p := ⟨p, hp⟩) ⟨q, hq⟩ hsel).mul h.unit

/-! ### The forward elimination -/

/-- The columns before `k` are those of an upper triangular matrix with ones on the diagonal. -/
structure UpperUnit (k : ℕ) (W : List Vec) : Prop where
  diagonal : ∀ j, j < k → bitIn W j j = true
  lower : ∀ i j, j < k → j < i → bitIn W i j = false

/-- A matrix whose columns up to `k` are zero from row `k` on, but for the part above the diagonal of the columns before it,
is singular. -/
theorem det_eq_zero_of_no_pivot {N k : ℕ} {W : List Vec} (hk : k < N) (hW : UpperUnit k W)
    (hcol : ∀ i, k ≤ i → bitIn W i k = false) : (entries N N W).det = 0 := by
  have hblock : ∀ i : Fin N, ¬ (i : ℕ) < k → ∀ j : Fin N, (j : ℕ) < k → entries N N W i j = 0 := by
    intro i hi j hj
    rw [entries_apply, hW.lower i j hj (by omega), toF2_false]
  have hzero : ((entries N N W).toSquareBlockProp fun i => ¬ (i : ℕ) < k).det = 0 := by
    refine det_eq_zero_of_column_eq_zero ⟨⟨k, hk⟩, lt_irrefl k⟩ fun i => ?_
    rw [toSquareBlockProp_def, of_apply, entries_apply, hcol i (Nat.le_of_not_lt i.2), toF2_false]
  rw [twoBlockTriangular_det (entries N N W) (fun i => (i : ℕ) < k) hblock, hzero, mul_zero]

/-- Of an invertible matrix every column has a pivot. -/
theorem exists_pivot {N k : ℕ} {W : List Vec} (hk : k < N) (hg : Grid N N W) (hW : UpperUnit k W)
    (hunit : IsUnit (entries N N W).det) : ∃ q, findPivot W k k = some q := by
  refine Option.ne_none_iff_exists'.mp fun hnone => hunit.ne_zero ?_
  exact det_eq_zero_of_no_pivot hk hW fun i hi => bitIn_eq_false_of_findPivot_none hg hnone hi

theorem UpperUnit.pivotStep {N k q : ℕ} {W : List Vec} (h : UpperUnit k W) (hg : Grid N N W)
    (hq : findPivot W k k = some q) : UpperUnit (k + 1) (pivotStep k k q W) where
  diagonal j hj := by
    rcases Nat.lt_succ_iff_lt_or_eq.mp hj with hj' | rfl
    · rw [bitIn_pivotStep_above hg hq hj', h.diagonal j hj']
    · exact bitIn_pivotStep_pivot_col hg hq
  lower i j hj hij := by
    by_cases hi : i < N
    · rcases Nat.lt_succ_iff_lt_or_eq.mp hj with hj' | rfl
      · by_cases hik : i < k
        · rw [bitIn_pivotStep_above hg hq hik, h.lower i j hj' hij]
        · exact bitIn_pivotStep_of_zero hg hq (fun i hi => h.lower i j hj' (by omega)) (Nat.le_of_not_lt hik) hi
      · exact bitIn_pivotStep_below hg hq hij hi
    · exact (hg.pivotStep hq).bitIn_outside (.inl (Nat.le_of_not_lt hi))

theorem foldl_forwardStep {N : ℕ} {A : List Vec} (hA : Grid N N A) (hunit : IsUnit (entries N N A).det) (k : ℕ)
    (hk : k ≤ N) :
    Companion N A ((List.range k).foldl forwardStep (A, identityRows N)) ∧
      UpperUnit k ((List.range k).foldl forwardStep (A, identityRows N)).1 := by
  induction k with
  | zero => exact ⟨.start hA, ⟨nofun, nofun⟩⟩
  | succ k ih =>
    obtain ⟨hcomp, hupper⟩ := ih (by omega)
    rw [List.range_succ, List.foldl_append, List.foldl_cons, List.foldl_nil]
    have hdet : IsUnit (entries N N ((List.range k).foldl forwardStep (A, identityRows N)).1).det := by
      rw [hcomp.product, det_mul]
      exact hcomp.unit.mul hunit
    obtain ⟨q, hq⟩ := exists_pivot (by omega) hcomp.work hupper hdet
    obtain ⟨hkN, hqN⟩ := pivot_lt hcomp.work hq
    rw [forwardStep_of_pivot hq]
    exact ⟨hcomp.eliminate hkN hqN (belowPivot_self k k _), hupper.pivotStep hcomp.work hq⟩

/-! ### The back-substitution -/

/-- The rows of an upper triangular matrix with ones on the diagonal whose columns from `c` on are those of the identity. -/
structure Reduced (N c : ℕ) (W : List Vec) : Prop where
  upper : UpperUnit N W
  cleared : ∀ i j, c ≤ j → j < N → i < j → bitIn W i j = false

/-- Row `c` has its 1 on the diagonal and nowhere else, so adding it to the rows above changes column `c` only. -/
theorem Reduced.backStep {N c : ℕ} {W : List Vec} (h : Reduced N (c + 1) W) (hg : Grid N N W) (hc : c < N) :
    Reduced N c (eliminate (aboveDiagonal c W) c c W) := by
  have hbit : ∀ i j, i < N → bitIn (eliminate (aboveDiagonal c W) c c W) i j =
      xor (bitIn W i j) (aboveDiagonal c W i && bitIn W c j) := by
    intro i j hi
    rw [bitIn_eliminate hg _ hc hc hi, Equiv.swap_self, Equiv.refl_apply]
  have hrow : ∀ j, j < N → bitIn W c j = decide (j = c) := by
    intro j hj
    rcases lt_trichotomy j c with hlt | rfl | hgt
    · rw [h.upper.lower c j hj hlt, decide_eq_false hlt.ne]
    · rw [h.upper.diagonal j hj, decide_eq_true rfl]
    · rw [h.cleared c j hgt hj hgt, decide_eq_false hgt.ne']
  refine ⟨⟨fun j hj => ?_, fun i j hj hij => ?_⟩, fun i j hcj hj hij => ?_⟩
  · rw [hbit j j hj, h.upper.diagonal j hj, hrow j hj]
    by_cases hjc : j = c <;> simp [aboveDiagonal, hjc]
  · by_cases hi : i < N
    · rw [hbit i j hi, h.upper.lower i j hj hij, hrow j hj]
      by_cases hjc : j = c
      · have hic : ¬ i < c := by omega
        simp [aboveDiagonal, hic]
      · simp [hjc]
    · exact (hg.eliminate _ hc hc).bitIn_outside (.inl (Nat.le_of_not_lt hi))
  · rw [hbit i j (hij.trans hj), hrow j hj]
    rcases hcj.eq_or_lt with rfl | hcj'
    · simp [aboveDiagonal, hij]
    · simp [h.cleared i j hcj' hj hij, hcj'.ne']

theorem aboveDiagonal_self (c : ℕ) (W : List Vec) : aboveDiagonal c W c = false := by
  simp [aboveDiagonal]

theorem foldl_backStep {N : ℕ} {A : List Vec} (c : ℕ) (hc : c ≤ N) {st : List Vec × List Vec}
    (hcomp : Companion N A st) (hred : Reduced N c st.1) :
    Companion N A ((List.range c).reverse.foldl backStep st) ∧ Reduced N 0 ((List.range c).reverse.foldl backStep st).1 := by
  induction c generalizing st with
  | zero => exact ⟨hcomp, hred⟩
  | succ c ih =>
    rw [List.range_succ, List.reverse_append, List.reverse_singleton, List.singleton_append, List.foldl_cons, backStep_eq]
    have hcN : c < N := hc
    exact ih hcN.le (hcomp.eliminate hcN hcN (aboveDiagonal_self c st.1)) (hred.backStep hcomp.work hcN)

theorem Reduced.entries_eq_one {N : ℕ} {W : List Vec} (h : Reduced N 0 W) : entries N N W = 1 := by
  ext i j
  rcases lt_trichotomy i j with hlt | rfl | hgt
  · rw [entries_apply, h.cleared i j (Nat.zero_le _) j.2 hlt, toF2_false, one_apply_ne hlt.ne]
  · rw [entries_apply, h.upper.diagonal i i.2, toF2_true, one_apply_eq]
  · rw [entries_apply, h.upper.lower i j j.2 hgt, toF2_false, one_apply_ne hgt.ne']

/-! ### The inverse -/

/-- A square matrix of full rank is invertible over the field. -/
theorem isUnit_det_of_full_rank {N : ℕ} {A : Mat} (h : A.Shape N N) (hrank : matRank A = N) :
    IsUnit (entries N N A.row).det := by
  rw [← isUnit_iff_isUnit_det, ← linearIndependent_rows_iff_isUnit, linearIndependent_iff_card_eq_finrank_span,
    Fintype.card_fin, Set.finrank, ← rank_eq_finrank_span_row, ← matRank_eq_rank h, hrank]

/-- The elimination of rule R83 computes a left inverse of a square matrix of full rank. -/
theorem entries_matInv_mul {N : ℕ} {A : Mat} (h : A.Shape N N) (hrank : matRank A = N) :
    entries N N (matInv A).row * entries N N A.row = 1 := by
  have hunit : IsUnit (entries N N A.row).det := isUnit_det_of_full_rank h hrank
  have hgrid : Grid N N A.row := h.grid
  obtain ⟨rfl, -, -, -⟩ := h
  obtain ⟨hcomp, hupper⟩ := foldl_forwardStep hgrid hunit A.rows le_rfl
  obtain ⟨hcomp', hred⟩ := foldl_backStep A.rows le_rfl hcomp ⟨hupper, fun i j hcj hj _ => absurd hj (by omega)⟩
  exact hcomp'.product.symm.trans hred.entries_eq_one

theorem entries_mul_matInv {N : ℕ} {A : Mat} (h : A.Shape N N) (hrank : matRank A = N) :
    entries N N A.row * entries N N (matInv A).row = 1 :=
  mul_eq_one_comm.mp (entries_matInv_mul h hrank)

section

variable {N : ℕ} {A B : Mat} (hB : B.Shape N N) (hA : A.Shape N N)
include hB hA

/-- `B·A = I` as matrix values says the same over the field (rule R84). -/
theorem matMul_eq_identity_iff : matMul B A = matIdentity N ↔ entries N N B.row * entries N N A.row = 1 := by
  rw [← entries_matMul hB hA, ← entries_identityRows N]
  exact ⟨fun h => by rw [h]; rfl, fun h => (matMul_shape hB hA).ext (matIdentity_shape N) h⟩

/-- A left inverse undoes the product with a vector (rules R79, R84). -/
theorem matVecMul_cancel (h : entries N N B.row * entries N N A.row = 1) {v : Vec} (hv : v.length = N) :
    matVecMul B (matVecMul A v) = v := by
  have hlen : (matVecMul A v).length = N := (length_matVecMul A v).trans hA.grid.length
  have hlen' : (matVecMul B (matVecMul A v)).length = N := (length_matVecMul _ _).trans hB.grid.length
  refine column_ext hlen' hv ?_
  rw [column_matVecMul hB hlen, column_matVecMul hA hv, mulVec_mulVec, h, one_mulVec]

end

/-- Settles O18: the elimination gives a left inverse over the field, which is two-sided and the only one. -/
theorem inverseIsTheTwoSidedInverse : Obligations.InverseIsTheTwoSidedInverse := by
  intro N A h hrank
  have hinv : (matInv A).Shape N N := matInv_shape h
  have hleft := entries_matInv_mul h hrank
  have hright := entries_mul_matInv h hrank
  refine ⟨hinv, (matMul_eq_identity_iff hinv h).mpr hleft, (matMul_eq_identity_iff h hinv).mpr hright,
    fun B hB hBA _ => ?_, fun v hv => ⟨matVecMul_cancel hinv h hleft hv, matVecMul_cancel h hinv hright hv⟩⟩
  exact hB.ext hinv (left_inv_eq_right_inv ((matMul_eq_identity_iff hB h).mp hBA) hright)

end Sys2Proof.Machine
end

section
/-! PROOFS. The GF(2) algebra commands VXOR, VAND, MVMUL, RANK and MINV (rules R77 to R85): what each one comes to when its
checks hold, the register it writes whole (rules R15, R16), and its frame. -/

namespace Sys2Proof.Machine

variable {s : State} {d a b : RegIdx}

/-! ### The completion of a command whose checks hold, or one of whose checks fails -/

theorem firstFail_cons_true {ok : Bool} {e : CmdError} {cs : List (Bool × CmdError)} (h : ok = true) :
    firstFail ((ok, e) :: cs) = firstFail cs := by
  rw [firstFail_cons, if_pos h]

theorem firstFail_cons_false {ok : Bool} {e : CmdError} {cs : List (Bool × CmdError)} (h : ok = false) :
    firstFail ((ok, e) :: cs) = some e := by
  rw [firstFail_cons, if_neg (Bool.eq_false_iff.mp h)]

/-- The second check is the first that fails. -/
theorem firstFail_second {ok ok' : Bool} {e e' : CmdError} {cs : List (Bool × CmdError)} (h : ok = true) (h' : ok' = false) :
    firstFail ((ok, e) :: (ok', e') :: cs) = some e' :=
  (firstFail_cons_true h).trans (firstFail_cons_false h')

theorem complete_checked_ok {cs : List (Bool × CmdError)} {u : State} (h : firstFail cs = none) :
    complete s (checked cs (.ok u)) = .next u.retire := by
  rw [checked_pass h, complete_ok]

theorem complete_checked_fail {cs : List (Bool × CmdError)} {r : OpResult} {e : CmdError} (h : firstFail cs = some e) :
    complete s (checked cs r) = .next (s.failCommand e) := by
  rw [checked_fail h, complete_fail]

/-! ### A vector register written whole (rule R15) -/

theorem onlyVec_putVec (s : State) (d : RegIdx) (v : Vec) : onlyVec d s (s.putVec d v).retire :=
  ⟨rfl, List.length_set, fun _ hi => List.getElem?_set_ne hi.symm⟩

/-- A command that writes the vector `v` to `V[d]` and completes: its frame, and what the register holds. -/
theorem vector_result (hs : s.FilesOk) (hd : s.okV d = true) {o : Host.Outcome State Fault Refusal} {v : Vec}
    (ho : o = .next (s.putVec d v).retire) {n : ℕ} (hlen : v.length = n) (hn : n ≤ s.cfg.dmax) {f : ℕ → Bool}
    (hbits : ∀ j, j < n → bitAt v j = f j) :
    ∃ t, o = .next t ∧ onlyVec d s t ∧ (t.vreg d).len = n ∧
      (∀ j, j < n → (t.vreg d).bits.getLsbD j = f j) ∧ (∀ j, n ≤ j → (t.vreg d).bits.getLsbD j = false) := by
  have hd' : d.toNat < s.v.length := hs.v.1.symm ▸ of_decide_eq_true hd
  have hreg : (s.putVec d v).retire.vreg d = { len := v.length, bits := storeOf 2047 v } := vreg_putVec_same hd'
  have hmax : n ≤ 2047 := hn.trans (dmax_le hs.cfg)
  refine ⟨_, ho, onlyVec_putVec s d v, by rw [hreg, hlen], fun j hj => ?_, fun j hj => ?_⟩
  · rw [hreg, getLsbD_storeOf, decide_eq_true (hj.trans_le hmax), Bool.true_and, hbits j hj]
  · rw [hreg, getLsbD_storeOf, bitAt_of_le (hlen.trans_le hj), Bool.and_false]

/-! ### VXOR and VAND -/

/-- The index check of VXOR and VAND (rule R63). -/
theorem okVVV_of_wellFormed (hwf : (Instr.vxor d a b).wellFormed s.cfg = true) :
    (s.okV d && s.okV a && s.okV b) = true := by
  simpa [Instr.wellFormed, Instr.regFields, and_assoc] using hwf

section

variable (hwf : (Instr.vxor d a b).wellFormed s.cfg = true) (hlen : (s.vreg a).len = (s.vreg b).len)
include hwf hlen

theorem elementwise_checks_hold :
    firstFail [(s.okV d && s.okV a && s.okV b, .illegalCommand),
      (decide ((s.vec a).length = (s.vec b).length), .invalidParameters)] = none := by
  have hlen' : (s.vec a).length = (s.vec b).length := by simpa using hlen
  rw [firstFail_cons_true (okVVV_of_wellFormed hwf), firstFail_cons_true (decide_eq_true hlen'), firstFail_nil]

theorem exec_vxor_ok : exec (.vxor d a b) s = .next (s.putVec d (vecXor (s.vec a) (s.vec b))).retire :=
  complete_checked_ok (elementwise_checks_hold hwf hlen)

theorem exec_vand_ok : exec (.vand d a b) s = .next (s.putVec d (vecAnd (s.vec a) (s.vec b))).retire :=
  complete_checked_ok (elementwise_checks_hold hwf hlen)

end

theorem bitAt_vec_of_lt {i : RegIdx} {j : ℕ} (hj : j < (s.vreg i).len) :
    bitAt (s.vec i) j = (s.vreg i).bits.getLsbD j := by
  rw [bitAt_vec, decide_eq_true hj, Bool.true_and]

/-- Settles O14: both commands write a vector of the common length whose bits are the XOR and the AND of the sources' bits. -/
theorem elementwiseResult : Obligations.ElementwiseResult := by
  intro s d a b hshape hwf hlen
  obtain ⟨hs, -⟩ := State.shape_iff.mp hshape
  obtain ⟨⟨hd, -⟩, -⟩ : (s.okV d = true ∧ _) ∧ _ := by
    simpa only [Bool.and_eq_true] using okVVV_of_wellFormed hwf
  have hmax : (s.vreg a).len ≤ s.cfg.dmax := (hs.vreg a).1
  have heq : (s.vec a).length = (s.vec b).length := by simpa using hlen
  refine ⟨vector_result hs hd (exec_vxor_ok hwf hlen) (by simp [hlen]) hmax fun j hj => ?_,
    vector_result hs hd (exec_vand_ok hwf hlen) (by simp [hlen]) hmax fun j hj => ?_⟩
  · rw [bitAt_vecXor heq, bitAt_vec_of_lt hj, bitAt_vec_of_lt (hlen ▸ hj)]
  · rw [bitAt_vecAnd, bitAt_vec_of_lt hj, bitAt_vec_of_lt (hlen ▸ hj)]

/-! ### MVMUL -/

/-- The index check of MVMUL (rule R63). -/
theorem okVMV_of_wellFormed (hwf : (Instr.mvmul d a b).wellFormed s.cfg = true) :
    (s.okV d && s.okM a && s.okV b) = true := by
  simpa [Instr.wellFormed, Instr.regFields, and_assoc] using hwf

theorem exec_mvmul_ok (hwf : (Instr.mvmul d a b).wellFormed s.cfg = true) (hlen : (s.vreg b).len = (s.mreg a).cols) :
    exec (.mvmul d a b) s = .next (s.putVec d (matVecMul (s.mat a) (s.vec b))).retire := by
  have hlen' : (s.vec b).length = (s.mat a).cols := by simpa using hlen
  refine complete_checked_ok ?_
  rw [firstFail_cons_true (okVMV_of_wellFormed hwf), firstFail_cons_true (decide_eq_true hlen'), firstFail_nil]

theorem mat_shape (s : State) (i : RegIdx) : (s.mat i).Shape (s.mreg i).rows (s.mreg i).cols :=
  ⟨rfl, rfl, length_mat_row i, fun _ hw => length_of_mem_mat_row i hw⟩

theorem bitIn_mat {i : RegIdx} {r j : ℕ} (hr : r < (s.mreg i).rows) (hj : j < (s.mreg i).cols) :
    bitIn (s.mat i).row r j = ((s.mreg i).bits.getD r 0).getLsbD j := by
  rw [State.mat, bitIn_map_range _ hr, bitAt_valueOf, decide_eq_true hj, Bool.true_and]

/-- Settles O15: bit `r` of the product is a parity over the declared columns of row `r`. -/
theorem mvmulResult : Obligations.MvmulResult := by
  intro s d a b hshape hwf hlen
  obtain ⟨hs, -⟩ := State.shape_iff.mp hshape
  obtain ⟨⟨hd, -⟩, -⟩ : (s.okV d = true ∧ _) ∧ _ := by
    simpa only [Bool.and_eq_true] using okVMV_of_wellFormed hwf
  obtain ⟨hrows, -, -, -⟩ := hs.mreg a
  refine vector_result hs hd (exec_mvmul_ok hwf hlen) (by simp) hrows fun r hr => ?_
  rw [bitAt_matVecMul (mat_shape s a) (by simpa using hlen) hr]
  refine congrArg parity (List.map_congr_left fun j hj => ?_)
  have hj' : j < (s.mreg a).cols := List.mem_range.mp hj
  rw [bitIn_mat hr hj', bitAt_vec_of_lt (hlen ▸ hj')]

/-! ### RANK -/

theorem exec_rank_ok (hwf : (Instr.rank a).wellFormed s.cfg = true) :
    exec (.rank a) s = .next (s.putResult (BitVec.ofNat 32 (matRank (s.mat a)))).retire := by
  have hidx : s.okM a = true := by simpa [Instr.wellFormed, Instr.regFields] using hwf
  exact complete_checked_ok (by rw [firstFail_cons_true hidx, firstFail_nil])

/-- Settles O17: the rank is at most the number of rows (rule R81), so it fits RESULT. -/
theorem rankResult : Obligations.RankResult := by
  intro s a hshape hwf
  obtain ⟨hs, -⟩ := State.shape_iff.mp hshape
  obtain ⟨hrows, -, -, -⟩ := hs.mreg a
  have hrank : matRank (s.mat a) ≤ (s.mreg a).rows := matRank_le_rows (mat_shape s a)
  have hmax : s.cfg.dmax ≤ 2047 := dmax_le hs.cfg
  refine ⟨_, exec_rank_ok hwf, rfl, ?_⟩
  exact Nat.mod_eq_of_lt (show matRank (s.mat a) < 2 ^ 32 by omega)

/-! ### MINV -/

/-- The index check of MINV (rule R63). -/
theorem okMM_of_wellFormed (hwf : (Instr.minv d a).wellFormed s.cfg = true) : (s.okM d && s.okM a) = true := by
  simpa [Instr.wellFormed, Instr.regFields] using hwf

theorem exec_minv_ok (hwf : (Instr.minv d a).wellFormed s.cfg = true) (hsquare : (s.mat a).rows = (s.mat a).cols)
    (hrank : (s.mat a).rows ≤ matRank (s.mat a)) :
    exec (.minv d a) s = .next (s.putMat d (matInv (s.mat a))).retire := by
  refine complete_checked_ok ?_
  rw [firstFail_cons_true (okMM_of_wellFormed hwf), firstFail_cons_true (decide_eq_true hsquare),
    firstFail_cons_true (decide_eq_true hrank), firstFail_nil]

/-- The two checks after the index check give the same code (rule R85). -/
theorem exec_minv_singular (hwf : (Instr.minv d a).wellFormed s.cfg = true)
    (h : (s.mat a).rows ≠ (s.mat a).cols ∨ matRank (s.mat a) < (s.mat a).rows) :
    exec (.minv d a) s = .next (s.failCommand .singularMatrix) := by
  refine complete_checked_fail ?_
  rw [firstFail_cons_true (okMM_of_wellFormed hwf)]
  by_cases hsquare : (s.mat a).rows = (s.mat a).cols
  · have hrank : ¬ (s.mat a).rows ≤ matRank (s.mat a) := Nat.not_le.mpr (h.resolve_left (not_not_intro hsquare))
    exact firstFail_second (decide_eq_true hsquare) (decide_eq_false hrank)
  · exact firstFail_cons_false (decide_eq_false hsquare)

theorem onlyMat_putMat (s : State) (d : RegIdx) (A : Mat) : onlyMat d s (s.putMat d A).retire :=
  ⟨rfl, List.length_set, fun _ hi => List.getElem?_set_ne hi.symm⟩

/-- A matrix value stored whole leaves every storage bit outside its region 0 (rule R16). -/
theorem getLsbD_matStore_outside {R C dmax r j : ℕ} {A : Mat} (h : A.Shape R C) (hrj : R ≤ r ∨ C ≤ j) :
    ((matStore dmax A).bits.getD r 0).getLsbD j = false := by
  by_cases hr : r < dmax
  · have hrow : (matStore dmax A).bits.getD r 0 = storeOf 2047 (A.row.getD r []) := by simp [matStore, hr]
    have hbit : bitAt (A.row.getD r []) j = false := h.grid.bitIn_outside hrj
    rw [hrow, getLsbD_storeOf, hbit, Bool.and_false]
  · simp [matStore, Nat.le_of_not_lt hr]

/-- Settles O19: the inverse, a matrix of the source's shape, is stored whole; either failing check gives SINGULAR_MATRIX. -/
theorem minvResult : Obligations.MinvResult := by
  refine ⟨fun s d a hshape hwf hsquare hrank => ?_, fun s d a hwf h => exec_minv_singular hwf h⟩
  obtain ⟨hs, -⟩ := State.shape_iff.mp hshape
  obtain ⟨hd, -⟩ : s.okM d = true ∧ _ := by simpa only [Bool.and_eq_true] using okMM_of_wellFormed hwf
  have hd' : d.toNat < s.m.length := hs.m.1.symm ▸ of_decide_eq_true hd
  obtain ⟨hmax, -, -, -⟩ := hs.mreg a
  have hmax' : (s.mreg a).rows ≤ 2047 := hmax.trans (dmax_le hs.cfg)
  have hA : (s.mat a).Shape (s.mreg a).rows (s.mreg a).rows := by
    simpa only [hsquare] using mat_shape s a
  have hinv : (matInv (s.mat a)).Shape (s.mreg a).rows (s.mreg a).rows := matInv_shape hA
  have ⟨hrows, hcols, hlen, hrow⟩ := hinv
  have hreg : (s.putMat d (matInv (s.mat a))).retire.mreg d = matStore s.cfg.dmax (matInv (s.mat a)) :=
    mreg_putMat_same hd'
  refine ⟨_, exec_minv_ok hwf hsquare hrank, onlyMat_putMat s d _, ?value, ?rows, ?cols, fun r j hrj => ?rest⟩
  case value =>
    exact mat_putMat_same hd' (hlen.trans hrows.symm) (hrows ▸ hmax) (fun w hw => (hrow w hw).trans hcols.symm)
      (hcols ▸ hmax')
  case rows => exact (congrArg MReg.rows hreg).trans hrows
  case cols => exact (congrArg MReg.cols hreg).trans hcols
  case rest => rw [hreg, getLsbD_matStore_outside hinv hrj]

end Sys2Proof.Machine
end

section
/-! PROOFS. The parameter checks (rules R77 to R79, R92 to R94, R96, R106 to R112): the first check of a command that fails is
the one on its lengths, its sizes, its cipher parameters or its round index. -/

namespace Sys2Proof.Machine

variable {s : State} {d a b c k : RegIdx}

theorem decide_length_vec {n : ℕ} (h : (s.vreg a).len ≠ n) : decide ((s.vec a).length = n) = false := by
  simpa using h

/-! ### The algebra commands -/

theorem exec_elementwise_lengths_differ (hwf : (Instr.vxor d a b).wellFormed s.cfg = true)
    (hlen : (s.vreg a).len ≠ (s.vreg b).len) :
    exec (.vxor d a b) s = .next (s.failCommand .invalidParameters) ∧
    exec (.vand d a b) s = .next (s.failCommand .invalidParameters) := by
  have hlen' : decide ((s.vec a).length = (s.vec b).length) = false := decide_length_vec (by simpa using hlen)
  have hidx := okVVV_of_wellFormed hwf
  exact ⟨complete_checked_fail (firstFail_second hidx hlen'), complete_checked_fail (firstFail_second hidx hlen')⟩

theorem exec_mvmul_length_differs (hwf : (Instr.mvmul d a b).wellFormed s.cfg = true)
    (hlen : (s.vreg b).len ≠ (s.mreg a).cols) :
    exec (.mvmul d a b) s = .next (s.failCommand .invalidParameters) :=
  complete_checked_fail (firstFail_second (okVMV_of_wellFormed hwf) (decide_length_vec hlen))

/-! ### The bit generator's commands -/

theorem exec_draw_too_long {len : Imm} (hwf : (Instr.graw d len).wellFormed s.cfg = true) (hlen : s.cfg.dmax < len.toNat) :
    exec (.graw d len) s = .next (s.failCommand .invalidParameters) ∧
    exec (.gss d len) s = .next (s.failCommand .invalidParameters) := by
  have hidx : s.okV d = true := by simpa [Instr.wellFormed, Instr.regFields] using hwf
  have hlen' : decide (len.toNat ≤ s.cfg.dmax) = false := decide_eq_false (Nat.not_le.mpr hlen)
  exact ⟨complete_checked_fail (firstFail_second hidx hlen'), complete_checked_fail (firstFail_second hidx hlen')⟩

theorem exec_gmat_too_large (hwf : (Instr.gmat d).wellFormed s.cfg = true)
    (hsize : s.cfg.dmax < s.job.argA.toNat ∨ s.cfg.dmax < s.job.argB.toNat) :
    exec (.gmat d) s = .next (s.failCommand .invalidParameters) := by
  have hidx : s.okM d = true := by simpa [Instr.wellFormed, Instr.regFields] using hwf
  have hsize' : (decide (s.job.argA.toNat ≤ s.cfg.dmax) && decide (s.job.argB.toNat ≤ s.cfg.dmax)) = false := by
    rw [Bool.and_eq_false_iff, decide_eq_false_iff_not, decide_eq_false_iff_not, Nat.not_le, Nat.not_le]
    exact hsize
  exact complete_checked_fail (firstFail_second hidx hsize')

/-! ### The cipher's commands -/

theorem exec_lkey_length_differs (hwf : (Instr.lkey c k).wellFormed s.cfg = true) (hinst : (s.ctx c).inst = true)
    (hlen : (s.vreg k).len ≠ s.ks c) : exec (.lkey c k) s = .next (s.failCommand .invalidParameters) := by
  have hidx : (s.okC c && s.okV k) = true := by simpa [Instr.wellFormed, Instr.regFields] using hwf
  exact complete_checked_fail
    ((firstFail_cons_true hidx).trans (firstFail_second hinst (decide_length_vec hlen)))

/-- The checks that LENC, LDEC, LSUB and LISUB share, `ready` being KEYED or INST (rules R108 to R111). -/
theorem firstFail_block {ready : Bool} (hwf : (Instr.lenc d a c).wellFormed s.cfg = true)
    (hlen : (s.vreg a).len ≠ s.bs c) (hready : ready = true) :
    firstFail [(s.okV d && s.okV a && s.okC c, .illegalCommand), (ready, .notReady),
      (decide ((s.vec a).length = s.bs c), .invalidParameters)] = some .invalidParameters := by
  have hidx : (s.okV d && s.okV a && s.okC c) = true := by
    simpa [Instr.wellFormed, Instr.regFields, and_assoc] using hwf
  rw [firstFail_cons_true hidx, firstFail_second hready (decide_length_vec hlen)]

/-- The sampled parameters of a context are its live ones, with a command in flight (rule R49) or none. -/
theorem params_eq_par_of_shape (h : s.Shape) (c : RegIdx) : s.params c = (s.ctx c).par := by
  obtain ⟨-, hjob⟩ := State.shape_iff.mp h
  cases hp : s.phase with
  | running j => exact params_eq_par hp hjob c
  | idle | clearing =>
    have hsample : s.job = s.sample 0 := by rw [State.job, hp]
    rw [State.params, hsample]
    exact List.getD_map s.cx Ctx.empty fun x => x.par

theorem exec_linst_invalid (hs : s.Shape) (hwf : (Instr.linst c).wellFormed s.cfg = true)
    (hpar : validParams s.cfg (s.ctx c).par = false) :
    exec (.linst c) s = .next (s.failCommand .invalidParameters) := by
  have hidx : s.okC c = true := by simpa [Instr.wellFormed, Instr.regFields] using hwf
  have hpar' : validParams s.cfg (s.params c) = false := by rw [params_eq_par_of_shape hs, hpar]
  exact complete_checked_fail (firstFail_second hidx hpar')

/-! ### LXRD -/

/-- LXRD in a context that is ready for its selector, of a round index out of the selector's range (rule R112). -/
theorem exec_lxrd_round_out_of_range {sel : LxrdSel} (hwf : (Instr.lxrd d c sel).wellFormed s.cfg = true)
    (hinst : (s.ctx c).inst = true) (hkeyed : sel = .rk ∨ sel = .mkey → (s.ctx c).keyed = true)
    (hround : lxrdRoundOk sel s.job.argA.toNat (s.rounds c) = false) :
    exec (.lxrd d c sel) s = .next (s.failCommand .invalidParameters) := by
  refine complete_checked_fail ((firstFail_cons_true ?index).trans ((firstFail_cons_true hinst).trans
    (firstFail_second ?ready hround)))
  case index => cases sel <;> simpa [Instr.wellFormed, Instr.regFields, LxrdSel.destFile] using hwf
  case ready =>
    cases sel with
    | rk | mkey => exact hkeyed (by simp)
    | lin | invlin | keym | rc => rfl

/-- LXRD into a matrix register (rule R112). -/
theorem exec_lxrd_matrix_out_of_range (hwf : (Instr.lxrd d c .lin).wellFormed s.cfg = true)
    (hinst : (s.ctx c).inst = true) :
    (s.rounds c ≤ s.job.argA.toNat →
      exec (.lxrd d c .lin) s = .next (s.failCommand .invalidParameters) ∧
      exec (.lxrd d c .invlin) s = .next (s.failCommand .invalidParameters)) ∧
    (s.rounds c < s.job.argA.toNat → exec (.lxrd d c .keym) s = .next (s.failCommand .invalidParameters)) :=
  ⟨fun h => ⟨exec_lxrd_round_out_of_range hwf hinst nofun (decide_eq_false (Nat.not_lt.mpr h)),
      exec_lxrd_round_out_of_range (sel := .invlin) hwf hinst nofun (decide_eq_false (Nat.not_lt.mpr h))⟩,
    fun h => exec_lxrd_round_out_of_range (sel := .keym) hwf hinst nofun (decide_eq_false (Nat.not_le.mpr h))⟩

/-- LXRD into a vector register (rule R112). -/
theorem exec_lxrd_vector_out_of_range (hwf : (Instr.lxrd d c .rc).wellFormed s.cfg = true)
    (hinst : (s.ctx c).inst = true) :
    (s.rounds c ≤ s.job.argA.toNat → exec (.lxrd d c .rc) s = .next (s.failCommand .invalidParameters)) ∧
    ((s.ctx c).keyed = true → s.rounds c < s.job.argA.toNat →
      exec (.lxrd d c .rk) s = .next (s.failCommand .invalidParameters)) :=
  ⟨fun h => exec_lxrd_round_out_of_range hwf hinst nofun (decide_eq_false (Nat.not_lt.mpr h)),
    fun hkeyed h =>
      exec_lxrd_round_out_of_range (sel := .rk) hwf hinst (fun _ => hkeyed) (decide_eq_false (Nat.not_le.mpr h))⟩

/-- Settles O10, command by command. -/
theorem parameterChecksFail : Obligations.ParameterChecksFail := by
  refine ⟨fun s d a b => exec_elementwise_lengths_differ, fun s d a b => exec_mvmul_length_differs,
    fun s c k => exec_lkey_length_differs, fun s d a c hwf hlen => ⟨fun hkeyed => ?cipher, fun hinst => ?substitution⟩,
    fun s c hs hwf hpar => ?linst, fun s d len => exec_draw_too_long, fun s d => exec_gmat_too_large,
    fun s d c => exec_lxrd_matrix_out_of_range, fun s d c => exec_lxrd_vector_out_of_range⟩
  case cipher =>
    have hfail := firstFail_block hwf hlen hkeyed
    exact ⟨complete_checked_fail hfail, complete_checked_fail hfail⟩
  case substitution =>
    have hfail := firstFail_block hwf hlen hinst
    exact ⟨complete_checked_fail hfail, complete_checked_fail hfail⟩
  case linst => exact exec_linst_invalid hs hwf (Bool.eq_false_iff.mpr fun h => hpar (validParams_iff.mp h))

end Sys2Proof.Machine
end

section
/-! PROOFS. The bit generator as a function of its register: the raw step is a bijection (rule R95 item 2), and which raw bits
the draws of raw and of self-shrunk bits consist of, bit by bit (rules R86 to R91). -/

namespace Sys2Proof.Machine

variable {l l' : Lfsr} {S : BitVec 80}

/-! ### The raw step -/

/-- The step is linear and sends no register but the all-zero one to the all-zero one. -/
theorem lfsrStep_injective : Function.Injective lfsrStep := by
  intro a b hab
  have hzero : lfsrStep (a ^^^ b) = 0 := by rw [lfsrStep_xor, hab, BitVec.xor_self]; rfl
  have hxor : a ^^^ b = 0 := by_contra fun hne => lfsrStep_ne_zero hne hzero
  exact BitVec.xor_eq_zero_iff.mp hxor

/-- Settles O20: an injective map of the finitely many registers is a bijection. -/
theorem rawStepIsBijection : Obligations.RawStepIsBijection := by
  have : Finite (BitVec 80) := Finite.of_injective _ BitVec.toFin_injective
  exact ⟨Finite.injective_iff_bijective.mp lfsrStep_injective, by decide⟩

/-! ### The warm-up (rule R88) -/

theorem ensureInit_s (l : Lfsr) : (ensureInit l).s = if l.init then l.s else lfsrSteps 160 l.s :=
  apply_ite Lfsr.s (l.init = true) l _

theorem ensureInit_init (l : Lfsr) : (ensureInit l).init = true := by
  unfold ensureInit
  split
  case isTrue h => exact h
  case isFalse => rfl

/-- The warm-up runs once. -/
theorem ensureInit_of_init (h : l.init = true) : ensureInit l = l := if_pos h

/-! ### Raw bits (rules R91, R92) -/

theorem lfsrRaw_eq (l : Lfsr) :
    lfsrRaw l = (lfsrFeedback (ensureInit l).s, { s := lfsrStep (ensureInit l).s, init := true }) := by
  rw [← ensureInit_init l]
  rfl

theorem drawRaw_succ (k : ℕ) (l : Lfsr) : drawRaw (k + 1) l =
    (lfsrFeedback (ensureInit l).s :: (drawRaw k (lfsrRaw l).2).1, (drawRaw k (lfsrRaw l).2).2) := rfl

/-- The bits of a draw are the feedback bits of the successive registers. -/
theorem bitAt_drawRaw {k j : ℕ} (hj : j < k) :
    bitAt (drawRaw k l).1 j = lfsrFeedback (lfsrSteps j (ensureInit l).s) := by
  induction k generalizing l j with
  | zero => cases hj
  | succ k ih =>
    cases j with
    | zero => rfl
    | succ j =>
      rw [drawRaw_succ, bitAt_cons_succ, ih (Nat.lt_of_succ_lt_succ hj), lfsrRaw_eq, ensureInit_of_init rfl, lfsrSteps]

/-- A draw from a warmed-up register takes one step per bit. -/
theorem drawRaw_snd_of_init (k : ℕ) (h : l.init = true) : (drawRaw k l).2 = { s := lfsrSteps k l.s, init := true } := by
  induction k generalizing l with
  | zero => rw [← h]; rfl
  | succ k ih =>
    rw [drawRaw_succ, lfsrRaw_eq, ih rfl, ensureInit_of_init h, lfsrSteps]

/-- The first bit of a draw runs the warm-up. -/
theorem drawRaw_snd_of_pos {k : ℕ} (hk : 0 < k) :
    (drawRaw k l).2 = { s := lfsrSteps k (ensureInit l).s, init := true } := by
  cases k with
  | zero => cases hk
  | succ k =>
    rw [drawRaw_succ, lfsrRaw_eq, drawRaw_snd_of_init k rfl, lfsrSteps]

/-! ### One self-shrunk bit (rules R87, R95 item 4) -/

theorem ssBit_of_choice (fuel : ℕ) (h : lfsrFeedback S = true) :
    ssBit (fuel + 1) S = some (lfsrFeedback (lfsrStep S), lfsrStep (lfsrStep S)) := if_pos h

theorem ssBit_of_no_choice (fuel : ℕ) (h : lfsrFeedback S = false) :
    ssBit (fuel + 1) S = ssBit fuel (lfsrStep (lfsrStep S)) := if_neg (Bool.eq_false_iff.mp h)

/-- Attempts that all have choice 0 give no bit. -/
theorem ssBit_eq_none {k : ℕ} (h : ∀ j, j < k → lfsrFeedback (lfsrSteps (2 * j) S) = false) : ssBit k S = none := by
  induction k generalizing S with
  | zero => rfl
  | succ k ih =>
    have hfirst : lfsrFeedback S = false := h 0 (Nat.succ_pos k)
    rw [ssBit_of_no_choice k hfirst]
    exact ih fun j hj => h (j + 1) (Nat.succ_lt_succ hj)

/-- With `k` the first attempt whose choice is 1, any bound above `k` gives that attempt's bit. -/
theorem ssBit_of_first_choice {fuel k : ℕ} (hfuel : k < fuel)
    (hbefore : ∀ j, j < k → lfsrFeedback (lfsrSteps (2 * j) S) = false)
    (hchoice : lfsrFeedback (lfsrSteps (2 * k) S) = true) :
    ssBit fuel S = some (lfsrFeedback (lfsrSteps (2 * k + 1) S), lfsrSteps (2 * k + 2) S) := by
  induction k generalizing fuel S with
  | zero =>
    obtain ⟨fuel, rfl⟩ := Nat.exists_eq_add_of_lt hfuel
    exact ssBit_of_choice _ hchoice
  | succ k ih =>
    cases fuel with
    | zero => cases hfuel
    | succ fuel =>
      have hfirst : lfsrFeedback S = false := hbefore 0 (Nat.succ_pos k)
      rw [ssBit_of_no_choice fuel hfirst]
      exact ih (Nat.lt_of_succ_lt_succ hfuel) (fun j hj => hbefore (j + 1) (Nat.succ_lt_succ hj)) hchoice

theorem lfsrSteps_zero_register (k : ℕ) : lfsrSteps k 0 = 0 := by
  have hstep : lfsrStep 0 = 0 := rawStepIsBijection.2
  induction k with
  | zero => rfl
  | succ k ih => rw [lfsrSteps, hstep, ih]

/-- A register that gives a choice of 1 at all gives one within 80 attempts. -/
theorem first_choice_lt {k : ℕ} (hbefore : ∀ j, j < k → lfsrFeedback (lfsrSteps (2 * j) S) = false)
    (hchoice : lfsrFeedback (lfsrSteps (2 * k) S) = true) : k < 80 := by
  have hS : S ≠ 0 := by
    rintro rfl
    rw [lfsrSteps_zero_register] at hchoice
    exact absurd hchoice (by decide)
  obtain ⟨p, hp⟩ := ssBit_ends hS
  by_contra hk
  have hnone : ssBit 80 S = none := ssBit_eq_none fun j hj => hbefore j (by omega)
  rw [hnone] at hp
  cases hp

/-- The self-shrinking rule (rule R87) from the warmed-up register, with the bound of the model's loop reached by no attempt. -/
theorem lfsrSs_of_first_choice {k : ℕ}
    (hbefore : ∀ j, j < k → lfsrFeedback (lfsrSteps (2 * j) (ensureInit l).s) = false)
    (hchoice : lfsrFeedback (lfsrSteps (2 * k) (ensureInit l).s) = true) :
    lfsrSs l = some (lfsrFeedback (lfsrSteps (2 * k + 1) (ensureInit l).s),
      { s := lfsrSteps (2 * k + 2) (ensureInit l).s, init := true }) := by
  have hbound : k < cycleBound := (first_choice_lt hbefore hchoice).trans (by unfold cycleBound; omega)
  rw [lfsrSs, ssBit_of_first_choice hbound hbefore hchoice, ← ensureInit_init l]

/-! ### Self-shrunk bits, one after the other (rules R91, R93, R94) -/

/-- The generator after one self-shrunk bit; as it was where the draw does not end. -/
def ssNext (l : Lfsr) : Lfsr := ((lfsrSs l).map Prod.snd).getD l

theorem ssNext_of_lfsrSs {b : Bool} (h : lfsrSs l = some (b, l')) : ssNext l = l' := by
  simp [ssNext, h]

/-- A drawn vector: bit `j` is the self-shrunk bit of the generator as `j` draws leave it. -/
theorem drawSs_bits {k : ℕ} {v : Vec} (h : drawSs k l = some (v, l')) :
    ssNext^[k] l = l' ∧ ∀ j, j < k → lfsrSs (ssNext^[j] l) = some (bitAt v j, ssNext^[j + 1] l) := by
  induction k generalizing l v with
  | zero => cases h; exact ⟨rfl, nofun⟩
  | succ k ih =>
    simp only [drawSs] at h
    split at h
    · cases h
    next b l1 hbit =>
      split at h
      · cases h
      next w l2 hrest =>
        cases h
        have hnext := ssNext_of_lfsrSs hbit
        obtain ⟨hend, hbits⟩ := ih hrest
        refine ⟨by rw [Function.iterate_succ_apply, hnext, hend], fun j hj => ?_⟩
        cases j with
        | zero => simpa [hnext] using hbit
        | succ j =>
          simpa only [Function.iterate_succ_apply, hnext, bitAt_cons_succ] using hbits j (Nat.lt_of_succ_lt_succ hj)

/-- Drawn rows: bit `j` of row `r` is the draw number `r * L + j`. -/
theorem drawVectors_bits {L k : ℕ} {vs : List Vec} (h : drawVectors L k l = some (vs, l')) :
    ssNext^[k * L] l = l' ∧ ∀ r j, r < k → j < L →
      lfsrSs (ssNext^[r * L + j] l) = some (bitIn vs r j, ssNext^[r * L + j + 1] l) := by
  induction k generalizing l vs with
  | zero => cases h; exact ⟨by rw [Nat.zero_mul, Function.iterate_zero_apply], nofun⟩
  | succ k ih =>
    simp only [drawVectors] at h
    split at h
    · cases h
    next v l1 hrow =>
      split at h
      · cases h
      next ws l2 hrest =>
        cases h
        obtain ⟨hnext, hfirst⟩ := drawSs_bits hrow
        obtain ⟨hend, hbits⟩ := ih hrest
        have hskip : ∀ m, ssNext^[m + L] l = ssNext^[m] l1 := fun m => by rw [Function.iterate_add_apply, hnext]
        refine ⟨by rw [Nat.succ_mul, hskip, hend], fun r j hr hj => ?_⟩
        cases r with
        | zero => rw [Nat.zero_mul, Nat.zero_add]; exact hfirst j hj
        | succ r =>
          have hindex : (r + 1) * L + j = (r * L + j) + L := by rw [Nat.succ_mul, Nat.add_right_comm]
          rw [hindex, Nat.add_right_comm (r * L + j) L 1, hskip, hskip]
          exact hbits r j (Nat.lt_of_succ_lt_succ hr) hj

/-- A drawn matrix: element `(r, j)` is the draw number `r * C + j`. -/
theorem drawMatrix_bits {R C : ℕ} {A : Mat} (h : drawMatrix R C l = some (A, l')) :
    ssNext^[R * C] l = l' ∧ ∀ r j, r < R → j < C →
      lfsrSs (ssNext^[r * C + j] l) = some (bitIn A.row r j, ssNext^[r * C + j + 1] l) := by
  simp only [drawMatrix] at h
  split at h
  · cases h
  next hrows => cases h; exact drawVectors_bits hrows

end Sys2Proof.Machine
end

section
/-! PROOFS. The bit generator's commands GRAW, GSS and GMAT (rules R92 to R94): what each one comes to when its checks hold, the
register it writes whole (rules R15, R16), and its frame. -/

namespace Sys2Proof.Machine

variable {s : State} {d : RegIdx} {len : Imm} {v : Vec} {A : Mat} {l : Lfsr}

/-! ### A vector register and the generator -/

/-- The state after a command that drew the vector `v` into `V[d]` and left the generator at `l`. -/
def State.drawnVec (s : State) (d : RegIdx) (v : Vec) (l : Lfsr) : State := ((s.putVec d v).putLfsr l).retire

theorem onlyVecAndGenerator_drawnVec (s : State) (d : RegIdx) (v : Vec) (l : Lfsr) :
    onlyVecAndGenerator d s (s.drawnVec d v l) :=
  ⟨rfl, List.length_set, fun _ hi => List.getElem?_set_ne hi.symm⟩

theorem vec_drawnVec (hs : s.FilesOk) (hd : s.okV d = true) (hlen : v.length ≤ s.cfg.dmax) :
    (s.drawnVec d v l).vec d = v :=
  vec_putVec_same (hs.v.1.symm ▸ of_decide_eq_true hd) (hlen.trans (dmax_le hs.cfg))

/-- What `V[d]` holds: the drawn bits, and 0 above them. -/
theorem vreg_drawnVec (hs : s.FilesOk) (hd : s.okV d = true) {n : ℕ} (hlen : v.length = n) (hn : n ≤ s.cfg.dmax) :
    ((s.drawnVec d v l).vreg d).len = n ∧
    (∀ j, j < n → ((s.drawnVec d v l).vreg d).bits.getLsbD j = bitAt v j) ∧
    (∀ j, n ≤ j → ((s.drawnVec d v l).vreg d).bits.getLsbD j = false) := by
  obtain ⟨t, ht, -, hreg⟩ := vector_result hs hd rfl hlen hn fun _ _ => rfl
  cases ht
  exact hreg

/-! ### GRAW and GSS -/

theorem okV_of_wellFormed (hwf : (Instr.graw d len).wellFormed s.cfg = true) : s.okV d = true := by
  simpa [Instr.wellFormed, Instr.regFields] using hwf

section

variable (hd : s.okV d = true) (hlen : len.toNat ≤ s.cfg.dmax)
include hd hlen

theorem draw_checks_hold :
    firstFail [(s.okV d, .illegalCommand), (decide (len.toNat ≤ s.cfg.dmax), .invalidParameters)] = none := by
  rw [firstFail_cons_true hd, firstFail_cons_true (decide_eq_true hlen), firstFail_nil]

theorem exec_graw_ok : exec (.graw d len) s =
    .next (s.drawnVec d (drawRaw len.toNat s.lfsr).1 (drawRaw len.toNat s.lfsr).2) :=
  complete_checked_ok (draw_checks_hold hd hlen)

theorem exec_gss_ok (hdraw : drawSs len.toNat s.lfsr = some (v, l)) :
    exec (.gss d len) s = .next (s.drawnVec d v l) := by
  rw [exec, execGss, hdraw]
  exact complete_checked_ok (draw_checks_hold hd hlen)

end

/-- Settles O21: the drawn bits are the feedback bits of the successive registers, and a draw of no bit is no draw. -/
theorem grawResult : Obligations.GrawResult := by
  intro s d len hshape hwf hmax
  obtain ⟨hs, -⟩ := State.shape_iff.mp hshape
  have hd := okV_of_wellFormed hwf
  obtain ⟨hlen, hbits, hrest⟩ := vreg_drawnVec (l := (drawRaw len.toNat s.lfsr).2) hs hd (length_drawRaw _ s.lfsr) hmax
  rw [← ensureInit_s]
  refine ⟨_, exec_graw_ok hd hmax, onlyVecAndGenerator_drawnVec _ _ _ _, hlen, fun j hj => ?bits, hrest,
    fun hzero => ?noDraw, fun hpos => ?generator⟩
  case bits => rw [hbits j hj, bitAt_drawRaw hj]
  case noDraw =>
    have hnone : drawRaw len.toNat s.lfsr = ([], s.lfsr) := by rw [hzero, drawRaw]
    exact congrArg Prod.snd hnone
  case generator =>
    have hend := drawRaw_snd_of_pos (l := s.lfsr) hpos
    exact ⟨congrArg Lfsr.init hend, congrArg Lfsr.s hend⟩

/-- Settles O22: the first choice of 1 comes within 80 attempts, so every draw ends, and the draws follow one another. -/
theorem gssResult : Obligations.GssResult := by
  refine ⟨fun l S k hS hbefore hchoice => ?bit, fun s d len hshape halive hwf hmax => ?command⟩
  case bit =>
    rw [← ensureInit_s] at hS
    subst hS
    exact lfsrSs_of_first_choice hbefore hchoice
  case command =>
    obtain ⟨hs, -⟩ := State.shape_iff.mp hshape
    have hd := okV_of_wellFormed (len := len) hwf
    obtain ⟨v, l, hdraw, hv, -⟩ := drawSs_ends len.toNat halive
    obtain ⟨hlen, hbits, hrest⟩ := vreg_drawnVec (l := l) hs hd hv hmax
    obtain ⟨hend, hdraws⟩ := drawSs_bits hdraw
    refine ⟨_, exec_gss_ok hd hmax hdraw, onlyVecAndGenerator_drawnVec s d v l, hlen, ?value,
      ⟨fun j => ssNext^[j] s.lfsr, rfl, hend, fun j hj => ?chain⟩, hrest⟩
    case value => rw [vec_drawnVec hs hd (hv.trans_le hmax)]; exact hdraw
    case chain => rw [hbits j hj]; exact hdraws j hj

/-! ### A matrix register and the generator -/

/-- The state after a command that drew the matrix `A` into `M[d]` and left the generator at `l`. -/
def State.drawnMat (s : State) (d : RegIdx) (A : Mat) (l : Lfsr) : State := ((s.putMat d A).putLfsr l).retire

theorem onlyMatAndGenerator_drawnMat (s : State) (d : RegIdx) (A : Mat) (l : Lfsr) :
    onlyMatAndGenerator d s (s.drawnMat d A l) :=
  ⟨rfl, List.length_set, fun _ hi => List.getElem?_set_ne hi.symm⟩

/-- A matrix value stored whole holds its elements in its region (rule R16). -/
theorem getLsbD_matStore {dmax r j : ℕ} (hr : r < dmax) (hj : j < 2047) :
    ((matStore dmax A).bits.getD r 0).getLsbD j = bitIn A.row r j := by
  have hrow : (matStore dmax A).bits.getD r 0 = storeOf 2047 (A.row.getD r []) := by simp [matStore, hr]
  rw [hrow, getLsbD_storeOf, decide_eq_true hj, Bool.true_and, bitIn]

section

variable (hs : s.FilesOk) (hd : s.okM d = true)
include hs hd

theorem mreg_drawnMat : (s.drawnMat d A l).mreg d = matStore s.cfg.dmax A :=
  mreg_putMat_same (hs.m.1.symm ▸ of_decide_eq_true hd)

theorem mat_drawnMat {R C : ℕ} (hA : A.Shape R C) (hR : R ≤ s.cfg.dmax) (hC : C ≤ s.cfg.dmax) :
    (s.drawnMat d A l).mat d = A := by
  obtain ⟨rfl, rfl, hlen, hrow⟩ := hA
  exact mat_putMat_same (hs.m.1.symm ▸ of_decide_eq_true hd) hlen hR hrow (hC.trans (dmax_le hs.cfg))

end

/-! ### GMAT -/

theorem exec_gmat_ok (hd : s.okM d = true) (hrows : s.job.argA.toNat ≤ s.cfg.dmax) (hcols : s.job.argB.toNat ≤ s.cfg.dmax)
    (hdraw : drawMatrix s.job.argA.toNat s.job.argB.toNat s.lfsr = some (A, l)) :
    exec (.gmat d) s = .next (s.drawnMat d A l) := by
  have hsize : (decide (s.job.argA.toNat ≤ s.cfg.dmax) && decide (s.job.argB.toNat ≤ s.cfg.dmax)) = true := by
    rw [decide_eq_true hrows, decide_eq_true hcols, Bool.and_self]
  rw [exec, execGmat, hdraw]
  exact complete_checked_ok (by rw [firstFail_cons_true hd, firstFail_cons_true hsize, firstFail_nil])

/-- Settles O23: every draw ends, and the draws follow one another row by row. -/
theorem gmatResult : Obligations.GmatResult := by
  intro s d hshape halive hwf hrows hcols
  obtain ⟨hs, -⟩ := State.shape_iff.mp hshape
  have hd : s.okM d = true := by simpa [Instr.wellFormed, Instr.regFields] using hwf
  have hmax : s.cfg.dmax ≤ 2047 := dmax_le hs.cfg
  obtain ⟨A, l, hdraw, -⟩ := drawMatrix_ends s.job.argA.toNat s.job.argB.toNat halive
  have hA : A.Shape s.job.argA.toNat s.job.argB.toNat := sizes_drawMatrix hdraw
  have ⟨hArows, hAcols, _, _⟩ := hA
  have hreg : (s.drawnMat d A l).mreg d = matStore s.cfg.dmax A := mreg_drawnMat hs hd
  obtain ⟨hend, hdraws⟩ := drawMatrix_bits hdraw
  refine ⟨_, exec_gmat_ok hd hrows hcols hdraw, onlyMatAndGenerator_drawnMat s d A l, ?rows, ?cols, ?value,
    ⟨fun k => ssNext^[k] s.lfsr, rfl, hend, fun r j hr hj => ?chain⟩, fun r j hrj => ?rest⟩
  case rows => exact (congrArg MReg.rows hreg).trans hArows
  case cols => exact (congrArg MReg.cols hreg).trans hAcols
  case value => rw [mat_drawnMat hs hd hA hrows hcols]; exact hdraw
  case chain =>
    rw [hreg, getLsbD_matStore (hr.trans_le hrows) (hj.trans_le (hcols.trans hmax))]
    exact hdraws r j hr hj
  case rest => rw [hreg, getLsbD_matStore_outside hA hrj]

end Sys2Proof.Machine
end

section
/-! PROOFS. The commands that leave the generator alone (rules R90, R114, R165). -/

namespace Sys2Proof.Machine

variable {s t : State} {l : Lfsr}

theorem Quiet.lfsr_eq (hq : Quiet s t) (h : s.lfsr = l) : t.lfsr = l := by
  rw [hq.eq]
  exact h

/-- Of the commands, four draw from the generator, and the operation of any other one does not write it. -/
theorem exec_draws_or_keeps_generator (i : Instr) (s : State) :
    (∃ d len, i = .graw d len) ∨ (∃ d len, i = .gss d len) ∨ (∃ d, i = .gmat d) ∨ (∃ c, i = .linst c) ∨
      Completes (fun u => u.lfsr = s.lfsr) s (exec i s) := by
  cases i with
  | graw d len => exact .inl ⟨d, len, rfl⟩
  | gss d len => exact .inr (.inl ⟨d, len, rfl⟩)
  | gmat d => exact .inr (.inr (.inl ⟨d, rfl⟩))
  | linst c => exact .inr (.inr (.inr (.inl ⟨c, rfl⟩)))
  | nop | vclr => exact .inr (.inr (.inr (.inr (completes_ok rfl))))
  | vxor | vand | mvmul | rank | minv | lkey | lenc | ldec | lsub | lisub | recon
  | gateAnd | gateOr | gateXor | gateNot | gateId =>
    exact .inr (.inr (.inr (.inr (completes_of_checked_ok fun _ => rfl))))
  | share | tgen =>
    refine .inr (.inr (.inr (.inr (completes_of_checked fun _ u hu => ?_))))
    split at hu <;> cases hu
    rfl
  | lxrd d c sel =>
    refine .inr (.inr (.inr (.inr (completes_of_checked fun _ u hu => ?_))))
    cases sel <;> cases hu <;> rfl

/-- Settles O24: a command that does not draw fails, waits or makes writes that are not the generator's. -/
theorem onlyDrawingCommandsMoveTheGenerator : Obligations.OnlyDrawingCommandsMoveTheGenerator := by
  intro i s t h
  refine (exec_draws_or_keeps_generator i s).imp_right (.imp_right (.imp_right (.imp_right fun hkeeps => ?_)))
  exact hkeeps.of_next Quiet.lfsr_eq rfl h

end Sys2Proof.Machine
end

section
/-! PROOFS. The retry loop of rule R98. It ends with no candidate exactly when no candidate in its bound is kept, a candidate
depends on the warmed-up register alone, and the 2^80 registers repeat within the bound: so the bound is no retry cap (rule
R99). -/

namespace Sys2Proof.Machine

variable {keep : ℕ → Bool} {R C : ℕ} {l l' : Lfsr}

/-! ### The candidates, one after the other -/

/-- The generator after one candidate; as it was where the draw does not end. -/
def retryNext (R C : ℕ) (l : Lfsr) : Lfsr := ((drawMatrix R C l).map Prod.snd).getD l

/-- The candidate drawn from `l` is kept. -/
def candidateKept (keep : ℕ → Bool) (R C : ℕ) (l : Lfsr) : Bool := (drawMatrix R C l).any fun p => keep (matRank p.1)

theorem drawUntil_eq_none_iff {fuel rej : ℕ} : drawUntil keep R C fuel rej l = none ↔
    ∀ j < fuel, candidateKept keep R C ((retryNext R C)^[j] l) = false := by
  induction fuel generalizing rej l with
  | zero => simp [drawUntil]
  | succ fuel ih =>
    cases hdraw : drawMatrix R C l with
    | none =>
      have hstays : retryNext R C l = l := by simp [retryNext, hdraw]
      have hkept : candidateKept keep R C l = false := by simp [candidateKept, hdraw]
      simp [drawUntil, hdraw, Function.iterate_fixed hstays, hkept]
    | some p =>
      obtain ⟨A, l1⟩ := p
      have hnext : retryNext R C l = l1 := by simp [retryNext, hdraw]
      have hkept : candidateKept keep R C l = keep (matRank A) := by simp [candidateKept, hdraw]
      rw [Nat.forall_lt_succ_left]
      cases hrank : keep (matRank A) with
      | true => simp [drawUntil, hdraw, hrank, hkept]
      | false => simp [drawUntil, hdraw, hrank, hkept, hnext, ih]

/-! ### A draw from the warmed-up generator (rule R88) -/

theorem ensureInit_idem (l : Lfsr) : ensureInit (ensureInit l) = ensureInit l := ensureInit_of_init (ensureInit_init l)

theorem lfsrSs_ensureInit (l : Lfsr) : lfsrSs (ensureInit l) = lfsrSs l := by
  rw [lfsrSs, ensureInit_idem, lfsrSs]

/-- A self-shrunk bit leaves the generator warmed up. -/
theorem ensureInit_of_lfsrSs {b : Bool} (h : lfsrSs l = some (b, l')) : ensureInit l' = l' := by
  simp only [lfsrSs] at h
  split at h <;> cases h
  exact ensureInit_of_init (ensureInit_init l)

theorem drawSs_ensureInit (k : ℕ) (l : Lfsr) : drawSs k (ensureInit l) = (drawSs k l).map (Prod.map id ensureInit) := by
  induction k generalizing l with
  | zero => rfl
  | succ k ih =>
    rw [drawSs, drawSs, lfsrSs_ensureInit]
    cases hbit : lfsrSs l with
    | none => rfl
    | some p =>
      obtain ⟨b, l1⟩ := p
      have hrest := ih l1
      rw [ensureInit_of_lfsrSs hbit] at hrest
      cases hdraw : drawSs k l1 with
      | none => simp [hdraw]
      | some q =>
        obtain ⟨v, l2⟩ := q
        simpa [hdraw] using hrest

theorem drawVectors_ensureInit (L k : ℕ) (l : Lfsr) :
    drawVectors L k (ensureInit l) = (drawVectors L k l).map (Prod.map id ensureInit) := by
  induction k generalizing l with
  | zero => rfl
  | succ k ih =>
    rw [drawVectors, drawVectors, drawSs_ensureInit]
    cases drawSs L l with
    | none => rfl
    | some p =>
      obtain ⟨v, l1⟩ := p
      simp only [Option.map_some, Prod.map, ih]
      cases drawVectors L k l1 <;> rfl

theorem drawMatrix_ensureInit (R C : ℕ) (l : Lfsr) :
    drawMatrix R C (ensureInit l) = (drawMatrix R C l).map (Prod.map id ensureInit) := by
  rw [drawMatrix, drawMatrix, drawVectors_ensureInit]
  cases drawVectors C R l <;> rfl

theorem candidateKept_ensureInit (l : Lfsr) : candidateKept keep R C (ensureInit l) = candidateKept keep R C l := by
  rw [candidateKept, candidateKept, drawMatrix_ensureInit, Option.any_map]
  rfl

theorem retryNext_ensureInit (l : Lfsr) : retryNext R C (ensureInit l) = ensureInit (retryNext R C l) := by
  rw [retryNext, retryNext, drawMatrix_ensureInit]
  cases drawMatrix R C l <;> rfl

/-! ### The registers repeat -/

/-- The warmed-up generator with the register `S`. -/
def warmed (S : BitVec 80) : Lfsr := { s := S, init := true }

theorem ensureInit_eq_warmed (l : Lfsr) : ensureInit l = warmed (ensureInit l).s := by
  rw [warmed, ← ensureInit_init l]

/-- What one candidate does to the register. -/
def retryRegister (R C : ℕ) (S : BitVec 80) : BitVec 80 := (ensureInit (retryNext R C (warmed S))).s

theorem retryRegister_semiconj :
    Function.Semiconj (fun k => (ensureInit k).s) (retryNext R C) (retryRegister R C) := fun k => by
  rw [retryRegister, ← ensureInit_eq_warmed, retryNext_ensureInit, ensureInit_idem]

/-- Whether candidate `j` is kept depends on the register that `j` candidates leave. -/
theorem candidateKept_iterate (j : ℕ) (l : Lfsr) : candidateKept keep R C ((retryNext R C)^[j] l) =
    candidateKept keep R C (warmed ((retryRegister R C)^[j] (ensureInit l).s)) := by
  rw [← candidateKept_ensureInit, ensureInit_eq_warmed]
  exact congrArg (fun S => candidateKept keep R C (warmed S)) ((retryRegister_semiconj.iterate_right j).eq l)

/-- Whatever an orbit in a set of `n` values comes to, it has come to among its first `n + 1` values. -/
theorem exists_iterate_eq_of_injective {α : Type} {n : ℕ} {e : α → Fin n} (he : Function.Injective e) (f : α → α) (a : α)
    (j : ℕ) : ∃ i < n + 1, f^[i] a = f^[j] a := by
  obtain ⟨p, q, hpq, heq⟩ : ∃ p q : Fin (n + 1), p < q ∧ f^[p] a = f^[q] a := by
    obtain ⟨p, q, hne, heq⟩ := Fintype.exists_ne_map_eq_of_card_lt (fun i : Fin (n + 1) => e (f^[i] a)) (by simp)
    rcases lt_or_gt_of_ne hne with hlt | hlt
    · exact ⟨p, q, hlt, he heq⟩
    · exact ⟨q, p, hlt, he heq.symm⟩
  induction j using Nat.strong_induction_on with
  | _ j ih =>
    by_cases hj : j < n + 1
    · exact ⟨j, hj, rfl⟩
    · have hqj : (q : ℕ) ≤ j := q.is_le.trans (by omega)
      have hlt : j - q + p < j := by omega
      obtain ⟨i, hi, hij⟩ := ih (j - q + p) hlt
      refine ⟨i, hi, ?_⟩
      calc f^[i] a = f^[j - q] (f^[p] a) := by rw [hij, Function.iterate_add_apply]
        _ = f^[j - q] (f^[q] a) := by rw [heq]
        _ = f^[j] a := by rw [← Function.iterate_add_apply, Nat.sub_add_cancel hqj]

/-- Settles O25: every later candidate is drawn from a register that one within the bound was drawn from. -/
theorem retryLoopHasNoCap : Obligations.RetryLoopHasNoCap := by
  intro keep R C rej l hnone fuel
  rw [drawUntil_eq_none_iff] at hnone ⊢
  intro j _
  obtain ⟨i, hi, heq⟩ := exists_iterate_eq_of_injective BitVec.toFin_injective (retryRegister R C) (ensureInit l).s j
  rw [candidateKept_iterate, ← heq, ← candidateKept_iterate]
  exact hnone i hi

/-! ### The count of rejected candidates (rules R26, R98) -/

theorem sat32Succ_lt (n : ℕ) : sat32Succ n < 2 ^ 32 := (min_le_right _ _).trans_lt (by omega)

theorem drawUntil_rejections_lt {fuel rej rej' : ℕ} {A : Mat} (hrej : rej < 2 ^ 32)
    (h : drawUntil keep R C fuel rej l = some (A, rej', l')) : rej' < 2 ^ 32 := by
  induction fuel generalizing rej l with
  | zero => cases h
  | succ fuel ih =>
    simp only [drawUntil] at h
    split at h
    · cases h
    · split at h
      · cases h; exact hrej
      · exact ih (sat32Succ_lt rej) h

theorem drawAccepted_rejections_lt {k rej rej' : ℕ} {As : List Mat} (hrej : rej < 2 ^ 32)
    (h : drawAccepted keep R C k rej l = some (As, rej', l')) : rej' < 2 ^ 32 := by
  induction k generalizing rej l As rej' l' with
  | zero => cases h; exact hrej
  | succ k ih =>
    simp only [drawAccepted] at h
    split at h
    · cases h
    next huntil =>
      split at h
      · cases h
      next hrest => cases h; exact ih (drawUntil_rejections_lt hrej huntil) hrest

theorem instantiate_rejections_lt {y : CxParams} {x : Ctx} {rej : ℕ} (h : instantiate y l = some (x, rej, l')) :
    rej < 2 ^ 32 := by
  simp only [instantiate] at h
  split at h
  · cases h
  next hlin =>
    split at h
    · cases h
    next =>
      split at h
      · cases h
      next hkm =>
        cases h
        exact drawAccepted_rejections_lt (drawAccepted_rejections_lt (by omega) hlin) hkm

end Sys2Proof.Machine
end

section
/-! PROOFS. The LowMC functions on values: the substitution layer group by group and its inverse (rules R101, R102, R105 (a)),
and encryption and decryption, round by round the inverse of each other (rules R103, R104, R105 (b)). -/

namespace Sys2Proof.Machine

/-! ### The substitution layer -/

section

variable {table table' : List ℕ} {m : ℕ} {v : Vec}

/-- Table `table'` takes back every group of three bits that went through `table`. -/
def UndoesTable (table' table : List ℕ) : Prop :=
  ∀ b0 b1 b2 : Bool, substitution table' 1 (sboxGroup table b0 b1 b2) = [b0, b1, b2]

theorem invSboxTable_undoes : UndoesTable invSboxTable sboxTable := by unfold UndoesTable; decide

theorem sboxTable_undoes : UndoesTable sboxTable invSboxTable := by unfold UndoesTable; decide

theorem substitution_cons (b0 b1 b2 : Bool) (rest : Vec) :
    substitution table (m + 1) (b0 :: b1 :: b2 :: rest) = sboxGroup table b0 b1 b2 ++ substitution table m rest := rfl

theorem substitution_undoes (h : UndoesTable table' table) (m : ℕ) (v : Vec) :
    substitution table' m (substitution table m v) = v := by
  induction m generalizing v with
  | zero => rfl
  | succ m ih =>
    match v with
    | [] | [_] | [_, _] => rfl
    | b0 :: b1 :: b2 :: rest => 
      calc substitution table' (m + 1) (substitution table (m + 1) (b0 :: b1 :: b2 :: rest))
          = substitution table' 1 (sboxGroup table b0 b1 b2) ++ substitution table' m (substitution table m rest) := rfl
        _ = [b0, b1, b2] ++ rest := by rw [h, ih]

/-- Settles O30: each table takes back what the other one did to a group. -/
theorem substitutionsAreMutualInverses : Obligations.SubstitutionsAreMutualInverses :=
  fun m x => ⟨substitution_undoes invSboxTable_undoes m x, substitution_undoes sboxTable_undoes m x⟩

/-- The three low bits of a number below 8 give it back. -/
theorem eq_of_low_bits : ∀ y < 8, (y.testBit 0).toNat + 2 * (y.testBit 1).toNat + 4 * (y.testBit 2).toNat = y := by decide

theorem groupValue_sboxGroup (htable : ∀ y ∈ table, y < 8) (b0 b1 b2 : Bool) (w : Vec) :
    groupValue (sboxGroup table b0 b1 b2 ++ w) 0 = table.getD (b0.toNat + 2 * b1.toNat + 4 * b2.toNat) 0 :=
  eq_of_low_bits _ (FileOk.getD ⟨rfl, htable⟩ _ (by omega))

theorem groupValue_succ (b0 b1 b2 : Bool) (w : Vec) (k : ℕ) : groupValue (b0 :: b1 :: b2 :: w) (k + 1) = groupValue w k := by
  simp [groupValue, Nat.mul_succ]

/-- Each group at the low end goes through the table (rule R102). -/
theorem groupValue_substitution (htable : ∀ y ∈ table, y < 8) (hlen : 3 * m ≤ v.length) {k : ℕ} (hk : k < m) :
    groupValue (substitution table m v) k = table.getD (groupValue v k) 0 := by
  induction m generalizing v k with
  | zero => cases hk
  | succ m ih =>
    match v, hlen with
    | [], hlen | [_], hlen | [_, _], hlen => simp only [List.length_cons, List.length_nil] at hlen; omega
    | b0 :: b1 :: b2 :: rest, hlen =>
      rw [substitution_cons]
      cases k with
      | zero => exact groupValue_sboxGroup htable b0 b1 b2 _
      | succ k =>
        have hlen' : 3 * m ≤ rest.length := by simp only [List.length_cons] at hlen; omega
        rw [groupValue_succ, ← ih hlen' (Nat.lt_of_succ_lt_succ hk)]
        exact groupValue_succ _ _ _ _ k

/-- The bits above the groups pass unchanged (rule R102). -/
theorem bitAt_substitution_above {j : ℕ} (hj : 3 * m ≤ j) : bitAt (substitution table m v) j = bitAt v j := by
  induction m generalizing v j with
  | zero => rfl
  | succ m ih =>
    match v with
    | [] | [_] | [_, _] => rfl
    | b0 :: b1 :: b2 :: rest =>
      obtain ⟨i, rfl⟩ := Nat.exists_eq_add_of_le' (show 3 ≤ j by omega)
      have hrest : bitAt (substitution table m rest) i = bitAt rest i := ih (by omega)
      exact hrest

end

/-! ### The components of a context in its range (rule R24) -/

section

variable {p : Params} {x : Ctx} {i : ℕ}

/-- A register read by an index inside its file is in order, whatever the default. -/
theorem FileOk.getD_of_lt {α : Type} {n : ℕ} {Q : α → Prop} {file : List α} (h : FileOk n Q file) (hi : i < n) {d : α} :
    Q (file.getD i d) := by
  have hi' : i < file.length := h.1.symm ▸ hi
  rw [List.getD_eq_getElem _ _ hi']
  exact h.2 _ (List.getElem_mem hi')

/-- A linear layer of the context has as many rows as the block has bits. -/
theorem Ctx.Instantiated.length_lin_row (h : x.Instantiated p) (hi : i < x.par.r.toNat) :
    (x.lin.getD i .empty).row.length = x.par.bs.toNat :=
  (h.lin.mono fun _ hA => hA.grid.length).getD_of_lt hi

theorem Ctx.Instantiated.length_invlin_row (h : x.Instantiated p) (hi : i < x.par.r.toNat) :
    (x.invlin.getD i .empty).row.length = x.par.bs.toNat :=
  (h.invlin.mono fun _ hA => hA.grid.length).getD_of_lt hi

/-! ### Encryption and decryption -/

theorem length_vecXor_of_eq {n : ℕ} {u w : Vec} (hu : u.length = n) (hw : w.length = n) : (vecXor u w).length = n := by
  rw [length_vecXor, hu, hw, min_self]

theorem vecXor_cancel {n : ℕ} {u w : Vec} (hu : u.length = n) (hw : w.length = n) : vecXor (vecXor u w) w = u := by
  have hsum : (vecXor u w).length = n := length_vecXor_of_eq hu hw
  refine vec_ext ((length_vecXor_of_eq hsum hw).trans hu.symm) fun j _ => ?_
  rw [bitAt_vecXor (hsum.trans hw.symm), bitAt_vecXor (hu.trans hw.symm), Bool.xor_assoc, Bool.xor_self, Bool.xor_false]

/-- Steps that keep `P` and that `g` takes back are taken back in reverse order. -/
theorem foldl_reverse_undoes {α β : Type} {P : β → Prop} {f g : β → α → β} {is : List α}
    (hkeep : ∀ i ∈ is, ∀ b, P b → P (f b i)) (hundo : ∀ i ∈ is, ∀ b, P b → g (f b i) i = b) {b : β} (hb : P b) :
    is.reverse.foldl g (is.foldl f b) = b := by
  induction is generalizing b with
  | nil => rfl
  | cons i is ih =>
    have hfirst : P (f b i) := hkeep i List.mem_cons_self b hb
    have hrest := ih (fun k hk => hkeep k (List.mem_cons_of_mem i hk))
      (fun k hk => hundo k (List.mem_cons_of_mem i hk)) hfirst
    rw [List.foldl_cons, List.reverse_cons, List.foldl_append, hrest]
    exact hundo i List.mem_cons_self b hb

section

variable {b : Vec} (hx : x.Instantiated p) (m : ℕ)
include hx

theorem length_decryptRound (b : Vec) (hi : i < x.par.r.toNat) : (decryptRound m x b i).length = x.par.bs.toNat := by
  rw [decryptRound, length_invSubstitute, length_matVecMul, hx.length_invlin_row hi]

/-- A block keeps its length through the rounds of rule R104. -/
theorem length_decryptRounds (hb : b.length = x.par.bs.toNat) :
    ((List.range x.par.r.toNat).reverse.foldl (decryptRound m x) b).length = x.par.bs.toNat :=
  List.foldlRecOn (motive := fun b : Vec => b.length = x.par.bs.toNat) _ _ hb
    fun b _ _ hi => length_decryptRound hx m b (List.mem_range.mp (List.mem_reverse.mp hi))

variable (hk : x.KeyScheduled)
include hk

theorem length_encryptRound (b : Vec) (hi : i < x.par.r.toNat) : (encryptRound m x b i).length = x.par.bs.toNat :=
  length_vecXor_of_eq
    (length_vecXor_of_eq ((length_matVecMul _ _).trans (hx.length_lin_row hi)) (hx.rc.getD_of_lt hi))
    (hk.rk.getD_of_lt (Nat.succ_lt_succ hi))

/-- `encrypt` gives a block of the block size (rule R103). -/
theorem length_encrypt (hb : b.length = x.par.bs.toNat) : (encrypt m x.par.r.toNat x b).length = x.par.bs.toNat :=
  List.foldlRecOn (motive := fun b : Vec => b.length = x.par.bs.toNat) _ _
    (length_vecXor_of_eq hb (hk.rk.getD_of_lt (Nat.succ_pos _)))
    fun b _ _ hi => length_encryptRound hx m hk b (List.mem_range.mp hi)

/-- `decrypt` gives a block of the block size (rule R104). -/
theorem length_decrypt (hb : b.length = x.par.bs.toNat) : (decrypt m x.par.r.toNat x b).length = x.par.bs.toNat :=
  length_vecXor_of_eq (length_decryptRounds hx m hb) (hk.rk.getD_of_lt (Nat.succ_pos _))

variable (hinv : x.Inverts) (hb : b.length = x.par.bs.toNat)
include hinv hb

theorem decryptRound_encryptRound (hi : i < x.par.r.toNat) : decryptRound m x (encryptRound m x b i) i = b := by
  have hlin : (matVecMul (x.lin.getD i .empty) (substitute m b)).length = x.par.bs.toNat :=
    (length_matVecMul _ _).trans (hx.length_lin_row hi)
  have hrc := hx.rc.getD_of_lt hi (d := [])
  have hrk := hk.rk.getD_of_lt (Nat.succ_lt_succ hi) (d := [])
  obtain ⟨hundo, -⟩ := hinv i hi (substitute m b) ((length_substitute m b).trans hb)
  rw [decryptRound, encryptRound, vecXor_cancel (length_vecXor_of_eq hlin hrc) hrk, vecXor_cancel hlin hrc, hundo]
  exact substitution_undoes invSboxTable_undoes m b

theorem encryptRound_decryptRound (hi : i < x.par.r.toNat) : encryptRound m x (decryptRound m x b i) i = b := by
  have hrc := hx.rc.getD_of_lt hi (d := [])
  have hrk := hk.rk.getD_of_lt (Nat.succ_lt_succ hi) (d := [])
  have hmasked := length_vecXor_of_eq hb hrk
  obtain ⟨-, hundo⟩ := hinv i hi _ (length_vecXor_of_eq hmasked hrc)
  have hsub : ∀ v, substitute m (invSubstitute m v) = v := substitution_undoes sboxTable_undoes m
  rw [encryptRound, decryptRound, hsub, hundo, vecXor_cancel hmasked hrc, vecXor_cancel hb hrk]

/-- Rule R105 (b), on values. -/
theorem decrypt_encrypt : decrypt m x.par.r.toNat x (encrypt m x.par.r.toNat x b) = b := by
  have hrk := hk.rk.getD_of_lt (Nat.succ_pos x.par.r.toNat) (d := [])
  have hrounds := foldl_reverse_undoes (is := List.range x.par.r.toNat) (f := encryptRound m x) (g := decryptRound m x)
    (fun _ hi b _ => length_encryptRound hx m hk b (List.mem_range.mp hi))
    (fun _ hi b hb => decryptRound_encryptRound hx m hk hinv hb (List.mem_range.mp hi)) (length_vecXor_of_eq hb hrk)
  rw [decrypt, encrypt, hrounds, vecXor_cancel hb hrk]

/-- Rule R105 (b), on values, the other way round. -/
theorem encrypt_decrypt : encrypt m x.par.r.toNat x (decrypt m x.par.r.toNat x b) = b := by
  have hround : ∀ i ∈ (List.range x.par.r.toNat).reverse, i < x.par.r.toNat :=
    fun _ hi => List.mem_range.mp (List.mem_reverse.mp hi)
  have hrk := hk.rk.getD_of_lt (Nat.succ_pos x.par.r.toNat) (d := [])
  have hrounds := foldl_reverse_undoes (f := decryptRound m x) (g := encryptRound m x)
    (fun i hi b _ => length_decryptRound hx m b (hround i hi))
    (fun i hi b hb => encryptRound_decryptRound hx m hk hinv hb (hround i hi)) hb
  rw [encrypt, decrypt, vecXor_cancel (length_decryptRounds hx m hb) hrk]
  rwa [List.reverse_reverse] at hrounds

end

end

end Sys2Proof.Machine
end

section
/-! PROOFS. The LowMC commands LINST, LKEY, LENC, LDEC, LSUB, LISUB and LXRD (rules R106 to R112): what each one comes to when
its checks hold or when it finds its context in too early a state (rule R97), what it writes whole (rules R15, R16, R24), and
its frame. -/

namespace Sys2Proof.Machine

variable {s : State} {d a c k : RegIdx} {sel : LxrdSel}

/-! ### The index checks (rule R63) and the state of the context (rule R97) -/

/-- The index check of LKEY. -/
theorem okCV_of_wellFormed (hwf : (Instr.lkey c k).wellFormed s.cfg = true) : (s.okC c && s.okV k) = true := by
  simpa [Instr.wellFormed, Instr.regFields] using hwf

/-- The index check of LENC, LDEC, LSUB and LISUB. -/
theorem okVVC_of_wellFormed (hwf : (Instr.lenc d a c).wellFormed s.cfg = true) :
    (s.okV d && s.okV a && s.okC c) = true := by
  simpa [Instr.wellFormed, Instr.regFields, and_assoc] using hwf

theorem okV_of_block (hwf : (Instr.lenc d a c).wellFormed s.cfg = true) : s.okV d = true := by
  obtain ⟨⟨hd, -⟩, -⟩ : (s.okV d = true ∧ _) ∧ _ := by simpa only [Bool.and_eq_true] using okVVC_of_wellFormed hwf
  exact hd

/-- LXRD's checks come down to those that follow the index check. -/
theorem firstFail_lxrdChecks (hwf : (Instr.lxrd d c sel).wellFormed s.cfg = true) :
    firstFail (lxrdChecks d c sel s) = firstFail (lxrdChecks d c sel s).tail := by
  refine firstFail_cons_true ?_
  cases sel <;> simpa [Instr.wellFormed, Instr.regFields, LxrdSel.destFile] using hwf

theorem exec_lxrd_not_inst (hinst : (s.ctx c).inst = false) (hwf : (Instr.lxrd d c sel).wellFormed s.cfg = true) :
    exec (.lxrd d c sel) s = .next (s.failCommand .notReady) :=
  complete_checked_fail ((firstFail_lxrdChecks hwf).trans (firstFail_cons_false hinst))

/-- Of a context that is not keyed, INST or KEYED is the check that fails. -/
theorem exec_lxrd_not_keyed (hkeyed : (s.ctx c).keyed = false) (hsel : sel = .rk ∨ sel = .mkey)
    (hwf : (Instr.lxrd d c sel).wellFormed s.cfg = true) :
    exec (.lxrd d c sel) s = .next (s.failCommand .notReady) := by
  cases hinst : (s.ctx c).inst with
  | false => exact exec_lxrd_not_inst hinst hwf
  | true =>
    refine complete_checked_fail ((firstFail_lxrdChecks hwf).trans ((firstFail_cons_true hinst).trans ?_))
    rcases hsel with rfl | rfl <;> exact firstFail_cons_false hkeyed

/-- Settles O11: INST or KEYED is the first check that fails, after the index check. -/
theorem contextTooEarlyIsNotReady : Obligations.ContextTooEarlyIsNotReady := by
  intro s d a c sel
  refine ⟨fun hinst hwf => ?key, fun hinst hwf => ?substitution, fun hkeyed hwf => ?cipher, exec_lxrd_not_inst,
    exec_lxrd_not_keyed⟩
  case key => exact complete_checked_fail (firstFail_second (okCV_of_wellFormed hwf) hinst)
  case substitution =>
    have hidx := okVVC_of_wellFormed hwf
    exact ⟨complete_checked_fail (firstFail_second hidx hinst), complete_checked_fail (firstFail_second hidx hinst)⟩
  case cipher =>
    have hidx := okVVC_of_wellFormed hwf
    exact ⟨complete_checked_fail (firstFail_second hidx hkeyed), complete_checked_fail (firstFail_second hidx hkeyed)⟩

/-! ### A context written whole (rule R24) -/

theorem onlyCtx_putCtx (s : State) (c : RegIdx) (x : Ctx) : onlyCtx c s (s.putCtx c x).retire :=
  ⟨rfl, List.length_set, fun _ hi => List.getElem?_set_ne hi.symm⟩

theorem lt_length_cx (hs : s.FilesOk) (hc : s.okC c = true) : c.toNat < s.cx.length := hs.cx.1.symm ▸ of_decide_eq_true hc

/-! ### LINST -/

/-- The state after LINST instantiated context `c` as `x`, with `rej` candidates rejected and the generator left at `l`. -/
def State.instantiated (s : State) (c : RegIdx) (x : Ctx) (rej : ℕ) (l : Lfsr) : State :=
  (((s.putCtx c x).putLfsr l).putRetries (BitVec.ofNat 32 rej)).retire

theorem exec_linst_ok {x : Ctx} {rej : ℕ} {l : Lfsr} (hc : s.okC c = true) (hpar : s.params c = (s.ctx c).par)
    (hvalid : validParams s.cfg (s.ctx c).par = true) (hloops : instantiate (s.ctx c).par s.lfsr = some (x, rej, l)) :
    exec (.linst c) s = .next (s.instantiated c x rej l) := by
  have hx : ({ x with par := (s.ctx c).par } : Ctx) = x := (instantiate_spec hloops).with_par
  rw [exec, execLinst, hpar, hloops]
  simp only [hx]
  exact complete_checked_ok (by rw [firstFail_cons_true hc, firstFail_cons_true hvalid, firstFail_nil])

/-- Settles O26: the count of rejections saturates below 2^32, so it fits RETRIES. -/
theorem linstResult : Obligations.LinstResult := by
  intro s c x rej l hshape hwf hvalid hloops
  obtain ⟨hs, -⟩ := State.shape_iff.mp hshape
  have hc : s.okC c = true := by simpa [Instr.wellFormed, Instr.regFields] using hwf
  have hspec := instantiate_spec hloops
  exact ⟨_, exec_linst_ok hc (params_eq_par_of_shape hshape c) hvalid hloops, rfl,
    Nat.mod_eq_of_lt (instantiate_rejections_lt hloops), ctx_putCtx_same (lt_length_cx hs hc), hspec.inst, hspec.keyed,
    hspec.par, List.length_set, fun _ hi => List.getElem?_set_ne hi.symm⟩

/-! ### LKEY -/

theorem exec_lkey_ok (hwf : (Instr.lkey c k).wellFormed s.cfg = true) (hpar : s.params c = (s.ctx c).par)
    (hinst : (s.ctx c).inst = true) (hlen : (s.vreg k).len = (s.ctx c).par.ks.toNat) :
    exec (.lkey c k) s = .next (s.putCtx c (setKey (s.ctx c).par.r.toNat (s.vec k) (s.ctx c))).retire := by
  have hlen' : (s.vec k).length = s.ks c := by rw [length_vec, hlen, State.ks, hpar]
  rw [← hpar]
  refine complete_checked_ok ?_
  rw [firstFail_cons_true (okCV_of_wellFormed hwf), firstFail_cons_true hinst, firstFail_cons_true (decide_eq_true hlen'),
    firstFail_nil]

/-- The key schedule of rule R100, round key by round key. -/
theorem getD_rk_setKey {r i : ℕ} (hi : i ≤ r) (v : Vec) (x : Ctx) :
    (setKey r v x).rk.getD i [] = matVecMul (x.km.getD i .empty) v := by
  simp [setKey, Nat.lt_succ_of_le hi]

/-- Settles O27: the context takes the key schedule. -/
theorem lkeyResult : Obligations.LkeyResult := by
  intro s c k hshape hwf hinst hlen
  obtain ⟨hs, -⟩ := State.shape_iff.mp hshape
  obtain ⟨hc, -⟩ : s.okC c = true ∧ _ := by simpa only [Bool.and_eq_true] using okCV_of_wellFormed hwf
  refine ⟨_, exec_lkey_ok hwf (params_eq_par_of_shape hshape c) hinst hlen, onlyCtx_putCtx s c _, ?_⟩
  have hctx : ∀ x, (s.putCtx c x).retire.ctx c = x := fun x => ctx_putCtx_same (lt_length_cx hs hc)
  rw [hctx]
  exact ⟨rfl, by simp [setKey], fun i hi => getD_rk_setKey hi _ _⟩

/-! ### A vector or a matrix register written whole -/

/-- A command that writes the vector `v` to `V[d]` and completes: its frame, and what the register holds (rule R15). -/
theorem vector_written (hs : s.FilesOk) (hd : s.okV d = true) {o : Host.Outcome State Fault Refusal} {v : Vec}
    (ho : o = .next (s.putVec d v).retire) (hv : v.length ≤ s.cfg.dmax) :
    ∃ t, o = .next t ∧ onlyVec d s t ∧ (t.vreg d).len = v.length ∧ vecRestClear d t ∧ t.vec d = v := by
  obtain ⟨t, ht, honly, hlen, -, hrest⟩ := vector_result hs hd ho rfl hv fun _ _ => rfl
  have hvec : (s.putVec d v).retire.vec d = v :=
    vec_putVec_same (hs.v.1.symm ▸ of_decide_eq_true hd) (hv.trans (dmax_le hs.cfg))
  cases ho.symm.trans ht
  exact ⟨_, ho, honly, hlen, fun j hj => hrest j (hlen ▸ hj), hvec⟩

/-- A command that writes the matrix `A` to `M[d]` and completes: its frame, and what the register holds (rule R16). -/
theorem matrix_written (hs : s.FilesOk) (hd : s.okM d = true) {o : Host.Outcome State Fault Refusal} {A : Mat} {R C : ℕ}
    (ho : o = .next (s.putMat d A).retire) (hA : A.Shape R C) (hR : R ≤ s.cfg.dmax) (hC : C ≤ s.cfg.dmax) :
    ∃ t, o = .next t ∧ onlyMat d s t ∧ matRestClear d t ∧ t.mat d = A := by
  have hd' : d.toNat < s.m.length := hs.m.1.symm ▸ of_decide_eq_true hd
  have hreg : (s.putMat d A).retire.mreg d = matStore s.cfg.dmax A := mreg_putMat_same hd'
  have ⟨hrows, hcols, hlen, hrow⟩ := hA
  have hmat : (s.putMat d A).retire.mat d = A :=
    mat_putMat_same hd' (hlen.trans hrows.symm) (hrows.trans_le hR) (fun w hw => (hrow w hw).trans hcols.symm)
      (hcols.trans_le (hC.trans (dmax_le hs.cfg)))
  refine ⟨_, ho, onlyMat_putMat s d A, fun r j hrj => ?_, hmat⟩
  rw [hreg] at hrj ⊢
  exact getLsbD_matStore_outside hA (by simpa only [matStore, hrows, hcols] using hrj)

/-! ### LENC, LDEC, LSUB and LISUB -/

section

variable (hwf : (Instr.lenc d a c).wellFormed s.cfg = true) (hpar : s.params c = (s.ctx c).par)
  (hlen : (s.vreg a).len = (s.ctx c).par.bs.toNat)
include hwf hpar hlen

/-- The checks that the four commands share, `ready` being KEYED or INST. -/
theorem block_checks_hold {ready : Bool} (hready : ready = true) :
    firstFail [(s.okV d && s.okV a && s.okC c, .illegalCommand), (ready, .notReady),
      (decide ((s.vec a).length = s.bs c), .invalidParameters)] = none := by
  have hlen' : (s.vec a).length = s.bs c := by rw [length_vec, hlen, State.bs, hpar]
  rw [firstFail_cons_true (okVVC_of_wellFormed hwf), firstFail_cons_true hready, firstFail_cons_true (decide_eq_true hlen'),
    firstFail_nil]

theorem exec_lenc_ok (hkeyed : (s.ctx c).keyed = true) : exec (.lenc d a c) s =
    .next (s.putVec d (encrypt (s.ctx c).par.m.toNat (s.ctx c).par.r.toNat (s.ctx c) (s.vec a))).retire := by
  rw [← hpar]
  exact complete_checked_ok (block_checks_hold hwf hpar hlen hkeyed)

theorem exec_ldec_ok (hkeyed : (s.ctx c).keyed = true) : exec (.ldec d a c) s =
    .next (s.putVec d (decrypt (s.ctx c).par.m.toNat (s.ctx c).par.r.toNat (s.ctx c) (s.vec a))).retire := by
  rw [← hpar]
  exact complete_checked_ok (block_checks_hold hwf hpar hlen hkeyed)

theorem exec_lsub_ok (hinst : (s.ctx c).inst = true) :
    exec (.lsub d a c) s = .next (s.putVec d (substitute (s.ctx c).par.m.toNat (s.vec a))).retire := by
  rw [← hpar]
  exact complete_checked_ok (block_checks_hold hwf hpar hlen hinst)

theorem exec_lisub_ok (hinst : (s.ctx c).inst = true) :
    exec (.lisub d a c) s = .next (s.putVec d (invSubstitute (s.ctx c).par.m.toNat (s.vec a))).retire := by
  rw [← hpar]
  exact complete_checked_ok (block_checks_hold hwf hpar hlen hinst)

end

section

variable {n : ℕ} {v : Vec} {o : Host.Outcome State Fault Refusal}

/-- A command that writes a block of `n` bits. -/
theorem block_written (hs : s.FilesOk) (hd : s.okV d = true) (ho : o = .next (s.putVec d v).retire) (hv : v.length = n)
    (hn : n ≤ s.cfg.dmax) : ∃ t, o = .next t ∧ onlyVec d s t ∧ (t.vreg d).len = n ∧ t.vec d = v ∧
      ∀ j, n ≤ j → (t.vreg d).bits.getLsbD j = false := by
  obtain ⟨t, ht, honly, hlen, hrest, hvec⟩ := vector_written hs hd ho (hv.trans_le hn)
  exact ⟨t, ht, honly, hlen.trans hv, hvec, fun j hj => hrest j ((hlen.trans hv).trans_le hj)⟩

/-- A command that writes a register's value after the substitution of its `n` low groups. -/
theorem substitution_written (hs : s.FilesOk) (hd : s.okV d = true) {table : List ℕ} (htable : ∀ y ∈ table, y < 8)
    (ho : o = .next (s.putVec d (substitution table n (s.vec a))).retire) (hn : 3 * n ≤ (s.vreg a).len) :
    ∃ t, o = .next t ∧ onlyVec d s t ∧ (t.vreg d).len = (s.vreg a).len ∧ vecRestClear d t ∧
      (∀ k, k < n → groupValue (t.vec d) k = table.getD (groupValue (s.vec a) k) 0) ∧
      ∀ j, 3 * n ≤ j → bitAt (t.vec d) j = bitAt (s.vec a) j := by
  have hlen : (substitution table n (s.vec a)).length = (s.vreg a).len := (length_substitution _ _ _).trans (length_vec a)
  obtain ⟨t, ht, honly, hreg, hrest, hvec⟩ := vector_written hs hd ho (hlen.trans_le (hs.vreg a).1)
  refine ⟨t, ht, honly, hreg.trans hlen, hrest, ?_⟩
  rw [hvec]
  exact ⟨fun k hk => groupValue_substitution htable (hn.trans_eq (length_vec a).symm) hk,
    fun j hj => bitAt_substitution_above hj⟩

end

/-- Settles O28: both functions give a block of the block size. -/
theorem cipherBlockResult : Obligations.CipherBlockResult := by
  intro s d a c hshape hwf hkeyed hlen
  obtain ⟨hs, -⟩ := State.shape_iff.mp hshape
  have hd := okV_of_block hwf
  have hpar := params_eq_par_of_shape hshape c
  have hx := (hs.ctx c).instantiated ((hs.ctx c).inst_of_keyed hkeyed)
  have hk := (hs.ctx c).keyScheduled hkeyed
  have hblock : (s.vec a).length = (s.ctx c).par.bs.toNat := (length_vec a).trans hlen
  exact ⟨block_written hs hd (exec_lenc_ok hwf hpar hlen hkeyed) (length_encrypt hx _ hk hblock) hx.bs_le,
    block_written hs hd (exec_ldec_ok hwf hpar hlen hkeyed) (length_decrypt hx _ hk hblock) hx.bs_le⟩

/-- Settles O29: the parameters leave room for the groups in a block (rule R96). -/
theorem substitutionResult : Obligations.SubstitutionResult := by
  intro s d a c hshape hwf hinst hlen
  obtain ⟨hs, -⟩ := State.shape_iff.mp hshape
  have hd := okV_of_block hwf
  have hpar := params_eq_par_of_shape hshape c
  obtain ⟨-, -, -, -, hgroups, -⟩ := validParams_iff.mp ((hs.ctx c).instantiated hinst).valid
  have hfit : 3 * (s.ctx c).par.m.toNat ≤ (s.vreg a).len := hgroups.trans_eq hlen.symm
  exact ⟨substitution_written hs hd (by decide) (exec_lsub_ok hwf hpar hlen hinst) hfit,
    substitution_written hs hd (by decide) (exec_lisub_ok hwf hpar hlen hinst) hfit⟩

/-! ### LENC and LDEC one after the other (rule R105 (b)) -/

section

variable {y : Vec} {j : Job}

/-- The state after a command wrote `y` to `V[d]` and the host's next command was accepted as `j`. -/
def State.nextInFlight (s : State) (d : RegIdx) (y : Vec) (j : Job) : State :=
  { (s.putVec d y).retire with phase := .running j }

@[simp] theorem nextInFlight_ctx (c : RegIdx) : (s.nextInFlight d y j).ctx c = s.ctx c := rfl

theorem nextInFlight_params (hj : j.cxp = s.cx.map (·.par)) (c : RegIdx) :
    (s.nextInFlight d y j).params c = (s.ctx c).par := by
  have hcxp : (s.nextInFlight d y j).job.cxp = s.cx.map (·.par) := hj
  rw [State.params, hcxp]
  exact List.getD_map s.cx Ctx.empty fun x => x.par

section

variable {z : Vec} {e : RegIdx} (hs : s.FilesOk)
include hs

theorem nextInFlight_vreg (hd : s.okV d = true) :
    (s.nextInFlight d y j).vreg d = { len := y.length, bits := storeOf 2047 y } :=
  vreg_putVec_same (hs.v.1.symm ▸ of_decide_eq_true hd)

theorem nextInFlight_vec (hd : s.okV d = true) (hy : y.length ≤ s.cfg.dmax) : (s.nextInFlight d y j).vec d = y :=
  vec_putVec_same (hs.v.1.symm ▸ of_decide_eq_true hd) (hy.trans (dmax_le hs.cfg))

/-- What two commands give that write `y` to `V[d]` and then `z` to `V[e]`. -/
theorem vec_of_two_commands {i i' : Instr} {t u w : State} (he : s.okV e = true) (hz : z.length ≤ s.cfg.dmax)
    (hfirst : exec i s = .next (s.putVec d y).retire)
    (hsecond : exec i' (s.nextInFlight d y j) = .next ((s.nextInFlight d y j).putVec e z).retire)
    (hu : u = { t with phase := .running j }) (ht : exec i s = .next t) (hw : exec i' u = .next w) : w.vec e = z := by
  cases hfirst.symm.trans ht
  subst hu
  cases hsecond.symm.trans hw
  have hlen : (s.nextInFlight d y j).v.length = s.cfg.nv := List.length_set.trans hs.v.1
  exact vec_putVec_same (hlen.symm ▸ of_decide_eq_true he) (hz.trans (dmax_le hs.cfg))

end

end

/-- Settles O31: the second command finds the context as it was and the first one's block, of the block size. -/
theorem cipherRoundTrip : Obligations.CipherRoundTrip := by
  intro s t u w d e a c j hshape hwf hwf' hkeyed hinv hlen hj hu
  obtain ⟨hs, -⟩ := State.shape_iff.mp hshape
  have hd := okV_of_block hwf
  have he := okV_of_block hwf'
  have hpar := params_eq_par_of_shape hshape c
  have hx := (hs.ctx c).instantiated ((hs.ctx c).inst_of_keyed hkeyed)
  have hk := (hs.ctx c).keyScheduled hkeyed
  have hblock : (s.vec a).length = (s.ctx c).par.bs.toNat := (length_vec a).trans hlen
  have hback : (s.vec a).length ≤ s.cfg.dmax := hs.length_vec_le a
  refine ⟨vec_of_two_commands hs he hback (exec_lenc_ok hwf hpar hlen hkeyed) ?decrypts hu,
    vec_of_two_commands hs he hback (exec_ldec_ok hwf hpar hlen hkeyed) ?encrypts hu⟩
  case decrypts =>
    have hy := length_encrypt hx (s.ctx c).par.m.toNat hk hblock
    have hexec := exec_ldec_ok (s := s.nextInFlight d _ j) hwf' (nextInFlight_params hj c)
      ((congrArg VReg.len (nextInFlight_vreg hs hd)).trans hy) hkeyed
    rwa [nextInFlight_vec hs hd (hy.trans_le hx.bs_le), nextInFlight_ctx, decrypt_encrypt hx _ hk hinv hblock] at hexec
  case encrypts =>
    have hy := length_decrypt hx (s.ctx c).par.m.toNat hk hblock
    have hexec := exec_lenc_ok (s := s.nextInFlight d _ j) hwf' (nextInFlight_params hj c)
      ((congrArg VReg.len (nextInFlight_vreg hs hd)).trans hy) hkeyed
    rwa [nextInFlight_vec hs hd (hy.trans_le hx.bs_le), nextInFlight_ctx, encrypt_decrypt hx _ hk hinv hblock] at hexec

/-! ### LXRD -/

/-- The checks of LXRD hold in a context that is ready for the selector, of a round index in its range (rule R112). -/
theorem lxrd_checks_hold (hwf : (Instr.lxrd d c sel).wellFormed s.cfg = true) (hinst : (s.ctx c).inst = true)
    (hkeyed : sel = .rk ∨ sel = .mkey → (s.ctx c).keyed = true) (hpar : s.params c = (s.ctx c).par)
    (hround : lxrdRoundOk sel s.job.argA.toNat (s.ctx c).par.r.toNat = true) :
    firstFail (lxrdChecks d c sel s) = none := by
  rw [← hpar] at hround
  rw [firstFail_lxrdChecks hwf]
  refine (firstFail_cons_true hinst).trans ((firstFail_cons_true ?ready).trans (firstFail_cons_true hround))
  cases sel with
  | rk | mkey => exact hkeyed (by simp)
  | lin | invlin | keym | rc => rfl

/-- A command that copies the vector `v`, which fits a register, to `V[d]`. -/
theorem vector_copied (hs : s.FilesOk) (hd : s.okV d = true) {o : Host.Outcome State Fault Refusal} {v : Vec}
    (ho : o = .next (s.putVec d v).retire) (hv : v.length ≤ s.cfg.dmax) :
    ∃ t, o = .next t ∧ onlyVec d s t ∧ vecRestClear d t ∧ t.vec d = v := by
  obtain ⟨t, ht, honly, -, hrest, hvec⟩ := vector_written hs hd ho hv
  exact ⟨t, ht, honly, hrest, hvec⟩

/-- Settles O32: each selected component fits its register, so it is stored whole. -/
theorem lxrdResult : Obligations.LxrdResult := by
  refine ⟨fun s d c hshape hwf hinst => ?matrices, fun s d c hshape hwf hinst => ?vectors⟩
  all_goals
    obtain ⟨hs, -⟩ := State.shape_iff.mp hshape
    have hpar := params_eq_par_of_shape hshape c
    have hx := (hs.ctx c).instantiated hinst
  case matrices =>
    obtain ⟨hd, -⟩ : s.okM d = true ∧ s.okC c = true := by
      simpa [Instr.wellFormed, Instr.regFields, LxrdSel.destFile] using hwf
    refine ⟨fun hround => ⟨?lin, ?invlin⟩, fun hround => ?keym⟩
    case lin =>
      exact matrix_written hs hd (complete_checked_ok (lxrd_checks_hold hwf hinst nofun hpar (decide_eq_true hround)))
        (hx.lin.getD_of_lt hround) hx.bs_le hx.bs_le
    case invlin =>
      exact matrix_written hs hd
        (complete_checked_ok (lxrd_checks_hold (sel := .invlin) hwf hinst nofun hpar (decide_eq_true hround)))
        (hx.invlin.getD_of_lt hround) hx.bs_le hx.bs_le
    case keym =>
      exact matrix_written hs hd
        (complete_checked_ok (lxrd_checks_hold (sel := .keym) hwf hinst nofun hpar (decide_eq_true hround)))
        (hx.km.getD_of_lt (Nat.lt_succ_of_le hround)) hx.bs_le hx.ks_le
  case vectors =>
    obtain ⟨hd, -⟩ : s.okV d = true ∧ s.okC c = true := by
      simpa [Instr.wellFormed, Instr.regFields, LxrdSel.destFile] using hwf
    refine ⟨fun hround => ?rc, fun hkeyed hround => ?rk, fun hkeyed => ?mkey⟩
    case rc =>
      exact vector_copied hs hd (complete_checked_ok (lxrd_checks_hold hwf hinst nofun hpar (decide_eq_true hround)))
        (hx.length_rc_le _)
    case rk =>
      have hk := (hs.ctx c).keyScheduled hkeyed
      exact vector_copied hs hd
        (complete_checked_ok (lxrd_checks_hold (sel := .rk) hwf hinst (fun _ => hkeyed) hpar (decide_eq_true hround)))
        (hx.length_rk_le hk _)
    case mkey =>
      have hk := (hs.ctx c).keyScheduled hkeyed
      exact vector_copied hs hd
        (complete_checked_ok (lxrd_checks_hold (sel := .mkey) hwf hinst (fun _ => hkeyed) hpar rfl))
        (hk.mkey.trans_le hx.ks_le)

end Sys2Proof.Machine
end

section
/-! PROOFS. The checks of the commands that use the party count, SHARE, RECON, TGEN and GATE of every kind (rules R18, R20, R118
to R121, R123, R140): the index check, the party count, then each command's own. -/

namespace Sys2Proof.Machine

variable {s : State} {d a x y k : RegIdx} {q : Imm}

/-! ### The index checks (rule R63) -/

/-- The index check of SHARE. -/
theorem okSV_of_wellFormed (hwf : (Instr.share d a q).wellFormed s.cfg = true) : (s.okS d && s.okV a) = true := by
  simpa [Instr.wellFormed, Instr.regFields] using hwf

/-- The index check of RECON. -/
theorem okVS_of_wellFormed (hwf : (Instr.recon d a q).wellFormed s.cfg = true) : (s.okV d && s.okS a) = true := by
  simpa [Instr.wellFormed, Instr.regFields] using hwf

/-- The index check of TGEN. -/
theorem okT_of_wellFormed (hwf : (Instr.tgen d).wellFormed s.cfg = true) : s.okT d = true := by
  simpa [Instr.wellFormed, Instr.regFields] using hwf

/-- The index check of GATE.AND and GATE.OR. -/
theorem okSSST_of_wellFormed (hwf : (Instr.gateAnd d x y k).wellFormed s.cfg = true) :
    (s.okS d && s.okS x && s.okS y && s.okT k) = true := by
  simpa [Instr.wellFormed, Instr.regFields, and_assoc] using hwf

/-! ### The party count (rule R118) -/

/-- The commands that use the party count (rule R118). -/
def usesPartyCount : Instr → Bool
  | .share _ _ _ | .recon _ _ _ | .tgen _ | .gateAnd _ _ _ _ | .gateOr _ _ _ _ | .gateXor _ _ _ | .gateNot _ _
  | .gateId _ _ => true
  | .nop | .vxor _ _ _ | .vand _ _ _ | .mvmul _ _ _ | .rank _ | .minv _ _ | .graw _ _ | .gss _ _ | .gmat _ | .linst _
  | .lkey _ _ | .lenc _ _ _ | .ldec _ _ _ | .lsub _ _ _ | .lisub _ _ _ | .lxrd _ _ _ | .vclr => false

/-- Such a command checks its indices and then the party count, before anything else is looked at. -/
theorem exec_checks_party_count_second {i : Instr} (h : usesPartyCount i = true) (s : State) :
    ∃ ok cs r, i.wellFormed s.cfg = ok ∧
      exec i s = complete s (checked ((ok, .illegalCommand) :: (s.okParties, .invalidParameters) :: cs) r) := by
  cases i with
  | share | recon | tgen | gateAnd | gateOr | gateXor | gateNot | gateId =>
    refine ⟨_, _, _, ?_, rfl⟩
    simp [Instr.wellFormed, Instr.regFields, Bool.and_assoc]
  | nop | vxor | vand | mvmul | rank | minv | graw | gss | gmat | linst | lkey | lenc | ldec | lsub | lisub | lxrd | vclr =>
    cases h

/-- Settles O9: the check of the party count follows the index check of each command that uses it. -/
theorem partyCountOutOfRangeFails : Obligations.PartyCountOutOfRangeFails := by
  refine ⟨fun i s hwf hcount hi => ?_, fun _ => rfl⟩
  have huses : usesPartyCount i = true := by
    rcases hi with ⟨_, _, _, rfl⟩ | ⟨_, _, _, rfl⟩ | ⟨_, rfl⟩ | ⟨_, _, _, _, rfl⟩ | ⟨_, _, _, _, rfl⟩ | ⟨_, _, _, rfl⟩ |
      ⟨_, _, rfl⟩ | ⟨_, _, rfl⟩ <;> rfl
  have hparties : s.okParties = false := Bool.eq_false_iff.mpr fun h => hcount (okParties_iff.mp h)
  obtain ⟨ok, cs, r, hok, hexec⟩ := exec_checks_party_count_second huses s
  rw [hexec]
  exact complete_checked_fail (firstFail_second (hok.symm.trans hwf) hparties)

/-! ### The checks after the party count -/

section

variable {ok : Bool} {e : CmdError} {cs cs' : List (Bool × CmdError)}

/-- Checks that give one code: whichever of them fails, the command fails with it. -/
theorem firstFail_append_of_one_code (hcode : ∀ c ∈ cs, c.2 = e) (hfail : ∃ c ∈ cs, c.1 = false) :
    firstFail (cs ++ cs') = some e := by
  induction cs with
  | nil =>
    obtain ⟨c, hc, -⟩ := hfail
    cases hc
  | cons c cs ih =>
    obtain ⟨hc, hcs⟩ := List.forall_mem_cons.mp hcode
    obtain ⟨holds, e'⟩ := c
    cases hc
    cases holds with
    | false => exact firstFail_cons_false rfl
    | true =>
      refine (firstFail_cons_true rfl).trans (ih hcs ?_)
      simpa using hfail

/-- With its indices and the party count in range, a command's first failing check is the first one after these. -/
theorem firstFail_after_party_count (hidx : ok = true) (hparties : s.okParties = true) :
    firstFail ((ok, .illegalCommand) :: (s.okParties, .invalidParameters) :: cs) = firstFail cs :=
  (firstFail_cons_true hidx).trans (firstFail_cons_true hparties)

end

theorem shareComplete_iff : s.shareComplete x = true ↔ (s.sreg x).cnt = s.partyCount := decide_eq_true_iff

theorem usable_iff : s.usable k = true ↔ (s.treg k).valid = true ∧ (s.treg k).cnt = s.partyCount := by
  simp [State.usable]

theorem shareComplete_eq_false (h : (s.sreg x).cnt ≠ s.partyCount) : s.shareComplete x = false := decide_eq_false h

theorem usable_eq_false (h : (s.treg k).valid = false ∨ (s.treg k).cnt ≠ s.partyCount) : s.usable k = false := by
  rcases h with h | h <;> simp [State.usable, h]

section

variable (hparties : s.okParties = true)
include hparties

theorem exec_share_bit_out_of_range (hwf : (Instr.share d a q).wellFormed s.cfg = true) (hq : (s.vreg a).len ≤ q.toNat) :
    exec (.share d a q) s = .next (s.failCommand .invalidParameters) := by
  have hq' : decide (q.toNat < (s.vec a).length) = false := by simpa using hq
  exact complete_checked_fail
    ((firstFail_after_party_count (okSV_of_wellFormed hwf) hparties).trans (firstFail_cons_false hq'))

theorem exec_recon_bit_out_of_range (hwf : (Instr.recon d a q).wellFormed s.cfg = true) (hq : (s.vreg d).len ≤ q.toNat) :
    exec (.recon d a q) s = .next (s.failCommand .invalidParameters) :=
  complete_checked_fail ((firstFail_after_party_count (okVS_of_wellFormed hwf) hparties).trans
    (firstFail_cons_false (decide_eq_false (Nat.not_lt.mpr hq))))

theorem exec_recon_incomplete (hwf : (Instr.recon d a q).wellFormed s.cfg = true) (hq : q.toNat < (s.vreg d).len)
    (hcnt : (s.sreg a).cnt ≠ s.partyCount) : exec (.recon d a q) s = .next (s.failCommand .tripleExhausted) :=
  complete_checked_fail ((firstFail_after_party_count (okVS_of_wellFormed hwf) hparties).trans
    (firstFail_second (decide_eq_true hq) (shareComplete_eq_false hcnt)))

/-- GATE.NOT and GATE.ID of an incomplete share. -/
theorem exec_unary_gate_incomplete (hidx : (s.okS d && s.okS x) = true) (hx : (s.sreg x).cnt ≠ s.partyCount) :
    exec (.gateNot d x) s = .next (s.failCommand .tripleExhausted) ∧
    exec (.gateId d x) s = .next (s.failCommand .tripleExhausted) := by
  have hfail := (firstFail_after_party_count hidx hparties).trans
    (firstFail_cons_false (e := .tripleExhausted) (cs := []) (shareComplete_eq_false hx))
  exact ⟨complete_checked_fail hfail, complete_checked_fail hfail⟩

/-- GATE.XOR of an incomplete share. -/
theorem exec_gateXor_incomplete (hidx : (s.okS d && s.okS x && s.okS y) = true)
    (hinputs : s.shareComplete x = false ∨ s.shareComplete y = false) :
    exec (.gateXor d x y) s = .next (s.failCommand .tripleExhausted) := by
  refine complete_checked_fail ((firstFail_after_party_count hidx hparties).trans ?_)
  exact firstFail_append_of_one_code (cs := [(s.shareComplete x, _), (s.shareComplete y, _)]) (cs' := []) (by simp)
    (by simpa using hinputs)

/-- GATE.AND and GATE.OR of an incomplete share or of a triple that is not usable. -/
theorem firstFail_tripleGate_inputs (hidx : (s.okS d && s.okS x && s.okS y && s.okT k) = true)
    (hinputs : s.shareComplete x = false ∨ s.shareComplete y = false ∨ s.usable k = false) :
    firstFail (tripleGateChecks d x y k s) = some .tripleExhausted := by
  refine (firstFail_after_party_count hidx hparties).trans ?_
  exact firstFail_append_of_one_code (cs := [(s.shareComplete x, _), (s.shareComplete y, _), (s.usable k, _)]) (by simp)
    (by simpa using hinputs)

/-- GATE.AND and GATE.OR of good inputs come down to the room in the view buffers (rule R123). -/
theorem firstFail_tripleGate_room (hidx : (s.okS d && s.okS x && s.okS y && s.okT k) = true)
    (hx : (s.sreg x).cnt = s.partyCount) (hy : (s.sreg y).cnt = s.partyCount) (hvalid : (s.treg k).valid = true)
    (hcnt : (s.treg k).cnt = s.partyCount) :
    firstFail (tripleGateChecks d x y k s) =
      firstFail [(decide (s.vptr + 5 + 2 * s.partyCount ≤ s.cfg.vcap), .viewOverflow)] :=
  (firstFail_after_party_count hidx hparties).trans ((firstFail_cons_true (shareComplete_iff.mpr hx)).trans
    ((firstFail_cons_true (shareComplete_iff.mpr hy)).trans (firstFail_cons_true (usable_iff.mpr ⟨hvalid, hcnt⟩))))

end

/-- Settles O12, command by command, in the order of the checks. -/
theorem sharingAndGateChecksInOrder : Obligations.SharingAndGateChecksInOrder := by
  refine ⟨fun s d a q hparties => ⟨exec_share_bit_out_of_range hparties, exec_recon_bit_out_of_range hparties,
    exec_recon_incomplete hparties⟩, fun s d x y k hwf hparties => ?gates⟩
  have hSSST := okSSST_of_wellFormed hwf
  obtain ⟨hSSS, -⟩ := Bool.and_eq_true_iff.mp hSSST
  obtain ⟨hSS, -⟩ := Bool.and_eq_true_iff.mp hSSS
  refine ⟨exec_unary_gate_incomplete hparties hSS, fun hinputs => ?xor, fun hinputs => ?exhausted,
    fun hx hy hvalid hcnt hfull => ?overflow⟩
  case xor =>
    exact exec_gateXor_incomplete hparties hSSS (hinputs.imp shareComplete_eq_false shareComplete_eq_false)
  case exhausted =>
    have hfail := firstFail_tripleGate_inputs hparties hSSST
      (hinputs.imp shareComplete_eq_false (Or.imp shareComplete_eq_false usable_eq_false))
    exact ⟨complete_checked_fail hfail, complete_checked_fail hfail⟩
  case overflow =>
    have hfail := (firstFail_tripleGate_room hparties hSSST hx hy hvalid hcnt).trans
      (firstFail_cons_false (decide_eq_false (Nat.not_le.mpr hfull)))
    exact ⟨complete_checked_fail hfail, complete_checked_fail hfail⟩

end Sys2Proof.Machine
end

section
/-! PROOFS. Secret sharing and multiplication triples (rules R113 to R121): the sharing of a bit as a value and in its storage
(rules R17, R115, R116), then SHARE, RECON and TGEN, and their wait for the TRNG's bits. -/

namespace Sys2Proof.Machine

variable {s : State} {d a : RegIdx} {q : Imm}

/-! ### The sharing of a bit -/

theorem bitAt_take {v : Vec} {n i : ℕ} (h : i < n) : bitAt (v.take n) i = bitAt v i := by
  simp [bitAt, h]

/-- Rule R116 on values: the drawn bits cancel out. -/
@[simp] theorem reconstruct_shareOf (secret : Bool) (b : List Bool) : reconstruct (shareOf secret b) = secret := by
  simp [reconstruct, shareOf]

theorem length_shareOf_take {n : ℕ} (hn : 2 ≤ n) (secret : Bool) {bits : List Bool} (hbits : n - 1 ≤ bits.length) :
    (shareOf secret (bits.take (n - 1))).length = n := by
  simp only [shareOf, List.length_cons, List.length_take]
  omega

section

variable {z : Vec} {n : ℕ} (hz : z.length = n) (hn : n ≤ 255)
include hz hn

theorem getLsbD_partyStore (i : ℕ) : (partyStore z).getLsbD i = bitAt z i := by
  rw [partyStore, getLsbD_storeOf]
  by_cases hi : i < 255
  · rw [decide_eq_true hi, Bool.true_and]
  · have hle : z.length ≤ i := by omega
    rw [bitAt_of_le hle, Bool.and_false]

/-- The bits of the parties above `n` are cleared (rule R17). -/
theorem getLsbD_partyStore_above {i : ℕ} (hi : n ≤ i) : (partyStore z).getLsbD i = false := by
  rw [getLsbD_partyStore hz hn, bitAt_of_le (hz.trans_le hi)]

theorem partyValue_partyStore : partyValue n (partyStore z) = z := by
  subst hz
  exact valueOf_storeOf hn

end

/-! ### SHARE -/

section

variable (hwf : (Instr.share d a q).wellFormed s.cfg = true) (hparties : s.okParties = true)
  (hq : q.toNat < (s.vreg a).len)
include hwf hparties hq

theorem share_checks_hold : firstFail (shareChecks d a q s) = none := by
  have hq' : q.toNat < (s.vec a).length := by simpa using hq
  exact (firstFail_after_party_count (okSV_of_wellFormed hwf) hparties).trans (firstFail_cons_true (decide_eq_true hq'))

theorem exec_share_waits (hbits : s.job.trngBits.length < s.partyCount - 1) : exec (.share d a q) s = .next s := by
  rw [exec, execShare, checked_pass (share_checks_hold hwf hparties hq), if_pos hbits, complete_wait]

theorem exec_share_ok (hbits : s.partyCount - 1 ≤ s.job.trngBits.length) : exec (.share d a q) s =
    .next (s.putShare d s.partyCount
      (shareOf ((s.vreg a).bits.getLsbD q.toNat) (s.job.trngBits.take (s.partyCount - 1)))).retire := by
  rw [exec, execShare, if_neg (Nat.not_lt.mpr hbits), bitAt_vec_of_lt hq]
  exact complete_checked_ok (share_checks_hold hwf hparties hq)

end

theorem onlyShare_putShare (s : State) (d : RegIdx) (n : ℕ) (z : Vec) : onlyShare d s (s.putShare d n z).retire :=
  ⟨rfl, List.length_set, fun _ hi => List.getElem?_set_ne hi.symm⟩

theorem lt_length_sh (hs : s.FilesOk) (hd : s.okS d = true) : d.toNat < s.sh.length := hs.sh.1.symm ▸ of_decide_eq_true hd

/-- Settles O33: the written value has one bit for each of the `n` parties, party 1's first. -/
theorem shareResult : Obligations.ShareResult := by
  intro s d a q hshape hwf hparties hq hbits
  obtain ⟨hs, -⟩ := State.shape_iff.mp hshape
  obtain ⟨hd, -⟩ := Bool.and_eq_true_iff.mp (okSV_of_wellFormed hwf)
  obtain ⟨hn, hpmax⟩ := okParties_iff.mp hparties
  have hmax : s.partyCount ≤ 255 := hpmax.trans (pmax_le hs.cfg)
  have hlen := length_shareOf_take hn ((s.vreg a).bits.getLsbD q.toNat) hbits
  refine ⟨_, exec_share_ok hwf hparties hq hbits, onlyShare_putShare s d _ _, ?_⟩
  have hreg : ∀ n z, (s.putShare d n z).retire.sreg d = { cnt := n, b := partyStore z } :=
    fun n z => sreg_putShare_same (lt_length_sh hs hd)
  rw [hreg]
  refine ⟨rfl, ?first, fun i hi hin => ?others, fun i hi => getLsbD_partyStore_above hlen hmax (by omega)⟩
  case first => rw [getLsbD_partyStore hlen hmax, shareOf, bitAt_cons_zero]
  case others =>
    obtain ⟨j, rfl⟩ := Nat.exists_eq_add_of_le' hi
    have hj : j < s.partyCount - 1 := by omega
    rw [getLsbD_partyStore hlen hmax]
    exact bitAt_take hj

/-! ### RECON -/

theorem onlyVec_putVecBit (s : State) (d : RegIdx) (i : ℕ) (b : Bool) : onlyVec d s (s.putVecBit d i b).retire :=
  ⟨rfl, List.length_set, fun _ hi => List.getElem?_set_ne hi.symm⟩

section

variable (hwf : (Instr.recon d a q).wellFormed s.cfg = true) (hparties : s.okParties = true)
  (hq : q.toNat < (s.vreg d).len) (hcnt : (s.sreg a).cnt = s.partyCount)
include hwf hparties hq hcnt

theorem exec_recon_ok : exec (.recon d a q) s =
    .next (s.putVecBit d q.toNat (reconstruct (s.share s.partyCount a))).retire :=
  complete_checked_ok ((firstFail_after_party_count (okVS_of_wellFormed hwf) hparties).trans
    ((firstFail_cons_true (decide_eq_true hq)).trans (firstFail_cons_true (shareComplete_iff.mpr hcnt))))

/-- RECON completes: its frame, and the one bit it writes (rules R15, R120). -/
theorem recon_written (hs : s.FilesOk) : ∃ t, exec (.recon d a q) s = .next t ∧ onlyVec d s t ∧
    (t.vreg d).len = (s.vreg d).len ∧ (t.vreg d).bits.getLsbD q.toNat = reconstruct (s.share s.partyCount a) ∧
    ∀ j, j ≠ q.toNat → (t.vreg d).bits.getLsbD j = (s.vreg d).bits.getLsbD j := by
  obtain ⟨hd, -⟩ := Bool.and_eq_true_iff.mp (okVS_of_wellFormed hwf)
  have hd' : d.toNat < s.v.length := hs.v.1.symm ▸ of_decide_eq_true hd
  have hwidth : q.toNat < 2047 := hq.trans_le ((hs.vreg d).1.trans (dmax_le hs.cfg))
  have hreg : ∀ i b, (s.putVecBit d i b).retire.vreg d = { s.vreg d with bits := putBit i b (s.vreg d).bits } :=
    fun i b => vreg_putVecBit_same hd'
  refine ⟨_, exec_recon_ok hwf hparties hq hcnt, onlyVec_putVecBit s d _ _, ?_⟩
  rw [hreg]
  refine ⟨rfl, ?written, fun j hj => ?others⟩
  case written => rw [getLsbD_putBit, if_pos ⟨rfl, hwidth⟩]
  case others => rw [getLsbD_putBit, if_neg fun h => hj h.1]

end

/-- Settles O35: the register's shares of `n` parties are its `n` low bits. -/
theorem reconResult : Obligations.ReconResult := by
  intro s d a q hshape hwf hparties hq hcnt
  obtain ⟨hs, -⟩ := State.shape_iff.mp hshape
  exact recon_written hwf hparties hq hcnt hs

/-! ### SHARE, then RECON (rule R116) -/

/-- The state after SHARE wrote `z` to `S[d]` and the host's next command was accepted as `j`. -/
def State.sharedInFlight (s : State) (d : RegIdx) (z : Vec) (j : Job) : State :=
  { (s.putShare d s.partyCount z).retire with phase := .running j }

section

variable {z : Vec} {j : Job} {e : RegIdx} {w : State}

theorem sharedInFlight_partyCount (hj : j.n = s.job.n) : (s.sharedInFlight d z j).partyCount = s.partyCount :=
  congrArg BitVec.toNat hj

theorem sharedInFlight_okParties (hj : j.n = s.job.n) : (s.sharedInFlight d z j).okParties = s.okParties := by
  rw [State.okParties, sharedInFlight_partyCount hj]
  rfl

/-- RECON of a sharing that SHARE wrote gives the bit that the sharing stands for. -/
theorem recon_of_shared (hs : s.FilesOk) (hd : s.okS d = true) (hparties : s.okParties = true)
    (hz : z.length = s.partyCount) (hj : j.n = s.job.n) (hwf : (Instr.recon e d q).wellFormed s.cfg = true)
    (hq : q.toNat < (s.vreg e).len) (hw : exec (.recon e d q) (s.sharedInFlight d z j) = .next w) :
    (w.vreg e).bits.getLsbD q.toNat = reconstruct z := by
  obtain ⟨-, hpmax⟩ := okParties_iff.mp hparties
  have hfiles : (s.sharedInFlight d z j).FilesOk := { hs.putShare d hpmax hz.le with }
  have hreg : (s.sharedInFlight d z j).sreg d = { cnt := s.partyCount, b := partyStore z } :=
    sreg_putShare_same (lt_length_sh hs hd)
  have hcount : (s.sharedInFlight d z j).partyCount = s.partyCount := sharedInFlight_partyCount hj
  have hshare : (s.sharedInFlight d z j).share s.partyCount d = z := by
    rw [State.share, hreg, partyValue_partyStore hz (hpmax.trans (pmax_le hs.cfg))]
  obtain ⟨w', hw', -, -, hbit, -⟩ := recon_written (s := s.sharedInFlight d z j) hwf
    ((sharedInFlight_okParties hj).trans hparties) hq ((congrArg SReg.cnt hreg).trans hcount.symm) hfiles
  cases hw'.symm.trans hw
  rw [hbit, hcount, hshare]

end

/-- Settles O36: the drawn bits cancel out in the sharing that RECON finds. -/
theorem shareThenReconGivesTheSecret : Obligations.ShareThenReconGivesTheSecret := by
  intro s t u w d e a q q' j hshape hwf hwf' hparties hq hq' hbits hj hu hshare hrecon
  obtain ⟨hs, -⟩ := State.shape_iff.mp hshape
  obtain ⟨hd, -⟩ := Bool.and_eq_true_iff.mp (okSV_of_wellFormed hwf)
  obtain ⟨hn, -⟩ := okParties_iff.mp hparties
  cases (exec_share_ok hwf hparties hq hbits).symm.trans hshare
  subst hu
  rw [recon_of_shared hs hd hparties (length_shareOf_take hn _ hbits) hj hwf' hq' hrecon, reconstruct_shareOf]

/-! ### TGEN -/

section

variable (hwf : (Instr.tgen d).wellFormed s.cfg = true) (hparties : s.okParties = true)
include hwf hparties

theorem tgen_checks_hold : firstFail (tgenChecks d s) = none :=
  firstFail_after_party_count (okT_of_wellFormed hwf) hparties

theorem exec_tgen_waits (hbits : s.job.trngBits.length < 2 + 3 * (s.partyCount - 1)) : exec (.tgen d) s = .next s := by
  rw [exec, execTgen, checked_pass (tgen_checks_hold hwf hparties), if_pos hbits, complete_wait]

theorem exec_tgen_ok (hbits : 2 + 3 * (s.partyCount - 1) ≤ s.job.trngBits.length) :
    exec (.tgen d) s = .next (s.putTriple d (tripleOf s.partyCount s.job.trngBits)).retire := by
  rw [exec, execTgen, if_neg (Nat.not_lt.mpr hbits)]
  exact complete_checked_ok (tgen_checks_hold hwf hparties)

end

theorem onlyTriple_putTriple (s : State) (d : RegIdx) (x : TReg) : onlyTriple d s (s.putTriple d x).retire :=
  ⟨rfl, List.length_set, fun _ hi => List.getElem?_set_ne hi.symm⟩

/-- The three arrays of a triple hold the sharings by the bits in draw order, and nothing above `n` (rules R17, R117). -/
theorem tripleOf_arrays {n : ℕ} {bits : List Bool} (hn : 2 ≤ n) (hmax : n ≤ 255) (hbits : 2 + 3 * (n - 1) ≤ bits.length) :
    partyValue n (tripleOf n bits).a = shareOf (bitAt bits 0) ((bits.drop 2).take (n - 1)) ∧
    partyValue n (tripleOf n bits).b = shareOf (bitAt bits 1) ((bits.drop (2 + (n - 1))).take (n - 1)) ∧
    partyValue n (tripleOf n bits).c =
      shareOf (bitAt bits 0 && bitAt bits 1) ((bits.drop (2 + 2 * (n - 1))).take (n - 1)) ∧
    ∀ i, n ≤ i → (tripleOf n bits).a.getLsbD i = false ∧ (tripleOf n bits).b.getLsbD i = false ∧
      (tripleOf n bits).c.getLsbD i = false := by
  have hlen : ∀ (secret : Bool) (drawn : ℕ), drawn ≤ 2 + 2 * (n - 1) →
      (shareOf secret ((bits.drop drawn).take (n - 1))).length = n := fun secret drawn hdrawn =>
    length_shareOf_take hn secret (by rw [List.length_drop]; omega)
  have ha := hlen (bitAt bits 0) 2 (by omega)
  have hb := hlen (bitAt bits 1) (2 + (n - 1)) (by omega)
  have hc := hlen (bitAt bits 0 && bitAt bits 1) (2 + 2 * (n - 1)) le_rfl
  simp only [tripleOf, List.drop_drop]
  exact ⟨partyValue_partyStore ha hmax, partyValue_partyStore hb hmax, partyValue_partyStore hc hmax, fun i hi =>
    ⟨getLsbD_partyStore_above ha hmax hi, getLsbD_partyStore_above hb hmax hi, getLsbD_partyStore_above hc hmax hi⟩⟩

/-- Settles O37: the three arrays are sharings, so they reconstruct to a, b and a ∧ b. -/
theorem tgenResult : Obligations.TgenResult := by
  intro s d hshape hwf hparties hbits
  obtain ⟨hs, -⟩ := State.shape_iff.mp hshape
  obtain ⟨hn, hpmax⟩ := okParties_iff.mp hparties
  have hd : d.toNat < s.tr.length := hs.tr.1.symm ▸ of_decide_eq_true (okT_of_wellFormed hwf)
  obtain ⟨ha, hb, hc, habove⟩ := tripleOf_arrays hn (hpmax.trans (pmax_le hs.cfg)) hbits
  refine ⟨_, exec_tgen_ok hwf hparties hbits, onlyTriple_putTriple s d _, ?_⟩
  have hreg : ∀ x, (s.putTriple d x).retire.treg d = x := fun x => treg_putTriple_same hd
  rw [hreg]
  refine ⟨rfl, rfl, ha, hb, hc, habove, ?_⟩
  rw [ha, hb, hc, reconstruct_shareOf, reconstruct_shareOf, reconstruct_shareOf]

/-! ### The TRNG's bits (rule R113) -/

section

variable {j : Job} {i : Instr} (hp : s.phase = .running j) (hd : decode j.word = .ok i)
include hp hd

/-- The request line is up exactly while the command in flight needs bits. -/
theorem trngReq_iff : s.trngReq = true ↔ j.trngBits.length < trngNeed i s := by
  rw [State.trngReq, trngMissing_of_decode_ok hp hd, decide_eq_true_iff, Nat.sub_pos_iff_lt]

/-- A requested bit is appended to the delivered ones and counted. -/
theorem trngValid_requested (hneed : j.trngBits.length < trngNeed i s) (b : Bool) : s.trngValid b =
    { s with phase := .running { j with trngBits := j.trngBits ++ [b] }, trngUsed := s.trngUsed + 1 } := by
  rw [State.trngValid, if_pos ((trngReq_iff hp hd).mpr hneed)]
  simp only [State.deliver, hp, List.length_singleton]

theorem trngValid_unrequested (hneed : trngNeed i s ≤ j.trngBits.length) (b : Bool) : s.trngValid b = s :=
  if_neg fun h => Nat.not_lt.mpr hneed ((trngReq_iff hp hd).mp h)

end

/-- Settles O34: a command short of bits waits, and the request line says whether a bit is taken. -/
theorem sharingWaitsForTheTrng : Obligations.SharingWaitsForTheTrng :=
  ⟨fun _ _ _ _ => exec_share_waits, fun _ _ => exec_tgen_waits, fun _ _ _ b hp hd =>
    ⟨fun hneed => congrArg Host.Outcome.next (trngValid_requested hp hd hneed b),
      fun hneed => congrArg Host.Outcome.next (trngValid_unrequested hp hd hneed b)⟩⟩

end Sys2Proof.Machine
end

section
/-! PROOFS. The gate functions on the parties' shares (rules R122 to R129): each output share from the input shares, the view
record of one party, and the bit that the output shares reconstruct to (rules R131, R168). -/

namespace Sys2Proof.Machine

variable {z x y a b c : Vec} {n i : ℕ}

/-! ### The shares of one register, changed one by one -/

theorem bitAt_map (f : Bool → Bool) (hi : i < z.length) : bitAt (z.map f) i = f (bitAt z i) := by
  simp [bitAt, hi]

/-- The correction goes to party 1 only (rule R127). -/
theorem bitAt_flipFirst (e : Bool) (hi : i < z.length) : bitAt (flipFirst e z) i = xor (bitAt z i) (decide (i = 0) && e) := by
  cases z with
  | nil => cases hi
  | cons b z => cases i <;> simp [flipFirst]

/-- One share flipped flips the reconstructed bit. -/
theorem parity_flipFirst (e : Bool) (hz : 0 < z.length) : parity (flipFirst e z) = xor (parity z) e := by
  cases z with
  | nil => cases hz
  | cons b z => rw [flipFirst, parity_cons, parity_cons, Bool.xor_right_comm]

/-- A factor common to all shares comes out of their sum. -/
theorem parity_map_and (e : Bool) (z : Vec) : parity (z.map (· && e)) = (parity z && e) := by
  induction z with
  | nil => rfl
  | cons b z ih => rw [List.map_cons, parity_cons, parity_cons, ih, Bool.and_xor_distrib_right]

/-- Every share flipped flips the reconstructed bit once for each party (rule R168). -/
theorem parity_map_not (z : Vec) : parity (z.map (!·)) = xor (parity z) (decide (z.length % 2 = 1)) := by
  induction z with
  | nil => rfl
  | cons b z ih =>
    have hodd : decide ((z.length + 1) % 2 = 1) = !decide (z.length % 2 = 1) := by
      rw [← decide_not, decide_eq_decide]
      omega
    rw [List.map_cons, parity_cons, parity_cons, List.length_cons, ih, hodd]
    cases b <;> simp

/-- The opened value of two share arrays is made of their storage bits, party by party (rule R127). -/
theorem vecXor_partyValue (n : ℕ) (u w : PartyBits) :
    vecXor (partyValue n u) (partyValue n w) = (List.range n).map fun i => xor (u.getLsbD i) (w.getLsbD i) := by
  rw [vecXor, partyValue, partyValue, valueOf, valueOf, List.zipWith_map, List.zipWith_self]

theorem bitAt_partyValue (n : ℕ) (u : PartyBits) (i : ℕ) : bitAt (partyValue n u) i = (decide (i < n) && u.getLsbD i) :=
  bitAt_valueOf n u i

theorem bitAt_partyValue_of_lt (hi : i < n) (u : PartyBits) : bitAt (partyValue n u) i = u.getLsbD i := by
  rw [bitAt_partyValue, decide_eq_true hi, Bool.true_and]

/-- Party `i + 1`'s view record, from the storage bits (rule R129). -/
theorem viewRecord_partyValue (hi : i < n) (X Y A B C : PartyBits) :
    viewRecord (partyValue n X) (partyValue n Y) (partyValue n A) (partyValue n B) (partyValue n C) i =
      [A.getLsbD i, B.getLsbD i, C.getLsbD i, X.getLsbD i, Y.getLsbD i] ++
        ((List.range n).map fun i => xor (X.getLsbD i) (A.getLsbD i)) ++
        ((List.range n).map fun i => xor (Y.getLsbD i) (B.getLsbD i)) := by
  simp only [viewRecord, bitAt_partyValue_of_lt hi, vecXor_partyValue]

/-! ### NOT -/

/-- NOT's output shares, below `n` and above it (rule R125). -/
theorem bitAt_gateNotOf (notAll : Bool) (x : Vec) (i : ℕ) :
    bitAt (gateNotOf notAll x) i = (decide (i < x.length) && xor (bitAt x i) (notAll || decide (i = 0))) := by
  by_cases hi : i < x.length
  · rw [decide_eq_true hi, Bool.true_and]
    cases notAll with
    | false => exact (bitAt_flipFirst true hi).trans (by rw [Bool.and_true, Bool.false_or])
    | true => exact (bitAt_map _ hi).trans (by rw [Bool.true_or, Bool.xor_true])
  · rw [decide_eq_false hi, Bool.false_and, bitAt_of_le (by rw [length_gateNotOf]; exact Nat.le_of_not_lt hi)]

theorem reconstruct_gateNotOf_false (hx : 0 < x.length) : reconstruct (gateNotOf false x) = !reconstruct x :=
  (parity_flipFirst true hx).trans (Bool.xor_true _)

theorem reconstruct_gateNotOf_true (x : Vec) :
    reconstruct (gateNotOf true x) = xor (reconstruct x) (decide (x.length % 2 = 1)) := parity_map_not x

/-! ### AND and OR -/

section

variable (hx : x.length = n) (hy : y.length = n) (ha : a.length = n) (hb : b.length = n) (hc : c.length = n)

section

include hx hy hc

theorem length_gateAndOf : (gateAndOf x y a b c).length = n := by
  simp [gateAndOf, hx, hy, hc]

theorem length_gateOrOf : (gateOrOf x y a b c).length = n :=
  length_vecXor_of_eq (length_vecXor_of_eq (length_gateAndOf hx hy hc) hx) hy

/-- AND's output shares with the opened values `D` and `E` (rule R127). -/
theorem bitAt_gateAndOf (hi : i < n) {D E : Bool} (hD : D = parity (vecXor x a)) (hE : E = parity (vecXor y b)) :
    bitAt (gateAndOf x y a b c) i =
      xor (xor (bitAt c i) (xor (bitAt x i && E) (bitAt y i && D))) (decide (i = 0) && (D && E)) := by
  have hxE : (x.map (· && E)).length = n := by rw [List.length_map, hx]
  have hyD : (y.map (· && D)).length = n := by rw [List.length_map, hy]
  have hsum := length_vecXor_of_eq hxE hyD
  have hshares := length_vecXor_of_eq hc hsum
  rw [gateAndOf, ← hD, ← hE, bitAt_flipFirst _ (hi.trans_eq hshares.symm), bitAt_vecXor (hc.trans hsum.symm),
    bitAt_vecXor (hxE.trans hyD.symm), bitAt_map _ (hi.trans_eq hx.symm), bitAt_map _ (hi.trans_eq hy.symm)]

/-- OR's output shares are AND's plus both inputs' (rule R128). -/
theorem bitAt_gateOrOf (i : ℕ) :
    bitAt (gateOrOf x y a b c) i = xor (xor (bitAt (gateAndOf x y a b c) i) (bitAt x i)) (bitAt y i) := by
  have hand : (gateAndOf x y a b c).length = n := length_gateAndOf hx hy hc
  rw [gateOrOf, bitAt_vecXor ((length_vecXor_of_eq hand hx).trans hy.symm), bitAt_vecXor (hand.trans hx.symm)]

end

/-- `c ⊕ x·e ⊕ y·d ⊕ d·e` with `d = x ⊕ a`, `e = y ⊕ b` and `c = a·b` is `x·y`. -/
theorem and_from_triple : ∀ x y a b : Bool,
    xor (xor (a && b) (xor (x && xor y b) (y && xor x a))) (xor x a && xor y b) = (x && y) := by decide

theorem or_from_and : ∀ x y : Bool, xor (xor (x && y) x) y = (x || y) := by decide

include hx hy ha hb hc

/-- Rule R131 for AND: with a correct triple the correction terms cancel out. -/
theorem reconstruct_gateAndOf (hn : 0 < n) (htriple : reconstruct c = (reconstruct a && reconstruct b)) :
    reconstruct (gateAndOf x y a b c) = (reconstruct x && reconstruct y) := by
  have hD : parity (vecXor x a) = xor (parity x) (parity a) := parity_vecXor (hx.trans ha.symm)
  have hE : parity (vecXor y b) = xor (parity y) (parity b) := parity_vecXor (hy.trans hb.symm)
  have hmap : ∀ {v : Vec} (e : Bool), v.length = n → (v.map (· && e)).length = n := fun e hv => by rw [List.length_map, hv]
  have hsum : ∀ d e : Bool, (vecXor (x.map (· && e)) (y.map (· && d))).length = n := fun d e =>
    length_vecXor_of_eq (hmap e hx) (hmap d hy)
  simp only [reconstruct] at htriple ⊢
  rw [gateAndOf, parity_flipFirst _ (hn.trans_eq (length_vecXor_of_eq hc (hsum _ _)).symm),
    parity_vecXor (hc.trans (hsum _ _).symm), parity_vecXor ((hmap _ hx).trans (hmap _ hy).symm), parity_map_and,
    parity_map_and, hD, hE, htriple]
  exact and_from_triple _ _ _ _

/-- Rule R131 for OR, which is AND ⊕ x ⊕ y. -/
theorem reconstruct_gateOrOf (hn : 0 < n) (htriple : reconstruct c = (reconstruct a && reconstruct b)) :
    reconstruct (gateOrOf x y a b c) = (reconstruct x || reconstruct y) := by
  have hand : (gateAndOf x y a b c).length = n := length_gateAndOf hx hy hc
  have hvalue := reconstruct_gateAndOf hx hy ha hb hc hn htriple
  simp only [reconstruct] at hvalue ⊢
  rw [gateOrOf, parity_vecXor ((length_vecXor_of_eq hand hx).trans hy.symm), parity_vecXor (hand.trans hx.symm), hvalue]
  exact or_from_and _ _

end

end Sys2Proof.Machine
end

section
/-! PROOFS. The gate commands (rules R122 to R136): what each one comes to when its checks hold, the share register it writes,
the views, VPTR and the used triple of GATE.AND and GATE.OR (rules R129, R130), the frames, and the bit that the output
register reconstructs to (rule R131). -/

namespace Sys2Proof.Machine

variable {s t : State} {d x y k : RegIdx} {z : Vec} {n : ℕ}

/-! ### A share register written whole (rule R17) -/

section

variable (ht : t.sreg d = { cnt := n, b := partyStore z }) (hz : z.length = n) (hn : n ≤ 255)
include ht hz hn

theorem getLsbD_written_share (i : ℕ) : (t.sreg d).b.getLsbD i = bitAt z i := by
  rw [ht]
  exact getLsbD_partyStore hz hn i

theorem written_share : t.share n d = z := by
  rw [State.share, ht]
  exact partyValue_partyStore hz hn

end

theorem sreg_retired_putShare (hs : s.FilesOk) (hd : s.okS d = true) (n : ℕ) (z : Vec) :
    (s.putShare d n z).retire.sreg d = { cnt := n, b := partyStore z } :=
  sreg_putShare_same (lt_length_sh hs hd)

/-- A party count that the check of rule R118 accepts fits the storage. -/
theorem partyCount_le (hs : s.FilesOk) (hparties : s.okParties = true) : s.partyCount ≤ 255 :=
  (okParties_iff.mp hparties).2.trans (pmax_le hs.cfg)

section

variable (hs : s.FilesOk) (hd : s.okS d = true) (hparties : s.okParties = true)
  {o : Host.Outcome State Fault Refusal} (ho : o = .next (s.putShare d s.partyCount z).retire) (hz : z.length = s.partyCount)
include hs hd hparties ho hz

/-- A command that writes the shares `z` to `S[d]` and completes: its frame, the count, and every bit of the register. -/
theorem shares_written {f : ℕ → Bool} (hbits : ∀ i, bitAt z i = f i) :
    ∃ t, o = .next t ∧ onlyShare d s t ∧ (t.sreg d).cnt = s.partyCount ∧ ∀ i, (t.sreg d).b.getLsbD i = f i := by
  have hreg := sreg_retired_putShare hs hd s.partyCount z
  exact ⟨_, ho, onlyShare_putShare s d _ z, congrArg SReg.cnt hreg,
    fun i => (getLsbD_written_share hreg hz (partyCount_le hs hparties) i).trans (hbits i)⟩

/-- The written register reconstructs to what the shares reconstruct to. -/
theorem reconstruct_shares_written : ∃ t, o = .next t ∧ reconstruct (t.share s.partyCount d) = reconstruct z := by
  have hreg := sreg_retired_putShare hs hd s.partyCount z
  exact ⟨_, ho, congrArg reconstruct (written_share hreg hz (partyCount_le hs hparties))⟩

end

theorem bitAt_share (n : ℕ) (i : RegIdx) (j : ℕ) : bitAt (s.share n i) j = (decide (j < n) && (s.sreg i).b.getLsbD j) :=
  bitAt_partyValue n _ j

/-! ### GATE.XOR, GATE.NOT and GATE.ID -/

/-- The index check of GATE.XOR. -/
theorem okSSS_of_wellFormed (hwf : (Instr.gateXor d x y).wellFormed s.cfg = true) :
    (s.okS d && s.okS x && s.okS y) = true := by
  simpa [Instr.wellFormed, Instr.regFields, and_assoc] using hwf

section

variable (hparties : s.okParties = true) (hx : (s.sreg x).cnt = s.partyCount)
include hparties hx

theorem exec_gateXor_ok (hidx : (s.okS d && s.okS x && s.okS y) = true) (hy : (s.sreg y).cnt = s.partyCount) :
    exec (.gateXor d x y) s =
      .next (s.putShare d s.partyCount (vecXor (s.share s.partyCount x) (s.share s.partyCount y))).retire :=
  complete_checked_ok ((firstFail_after_party_count hidx hparties).trans
    ((firstFail_cons_true (shareComplete_iff.mpr hx)).trans (firstFail_cons_true (shareComplete_iff.mpr hy))))

/-- The checks of GATE.NOT and GATE.ID. -/
theorem unary_gate_checks_hold (hidx : (s.okS d && s.okS x) = true) :
    firstFail [(s.okS d && s.okS x, .illegalCommand), (s.okParties, .invalidParameters),
      (s.shareComplete x, .tripleExhausted)] = none :=
  (firstFail_after_party_count hidx hparties).trans (firstFail_cons_true (shareComplete_iff.mpr hx))

theorem exec_gateNot_ok (hidx : (s.okS d && s.okS x) = true) : exec (.gateNot d x) s =
    .next (s.putShare d s.partyCount (gateNotOf s.job.notAll (s.share s.partyCount x))).retire :=
  complete_checked_ok (unary_gate_checks_hold hparties hx hidx)

theorem exec_gateId_ok (hidx : (s.okS d && s.okS x) = true) :
    exec (.gateId d x) s = .next (s.putShare d s.partyCount (s.share s.partyCount x)).retire :=
  complete_checked_ok (unary_gate_checks_hold hparties hx hidx)

end

/-- The sum of two registers' shares has a share for each party. -/
theorem length_vecXor_share (n : ℕ) (x y : RegIdx) : (vecXor (s.share n x) (s.share n y)).length = n :=
  length_vecXor_of_eq (length_share n x) (length_share n y)

theorem length_gateNotOf_share (notAll : Bool) (n : ℕ) (x : RegIdx) : (gateNotOf notAll (s.share n x)).length = n :=
  (length_gateNotOf notAll _).trans (length_share n x)

/-- Settles O40: each local gate writes one share for each of the `n` parties, made of that party's input shares alone. -/
theorem localGateResult : Obligations.LocalGateResult := by
  intro s d x y hshape hwf hparties hx
  obtain ⟨hs, -⟩ := State.shape_iff.mp hshape
  have hSSS := okSSS_of_wellFormed hwf
  obtain ⟨hSS, -⟩ := Bool.and_eq_true_iff.mp hSSS
  obtain ⟨hd, -⟩ := Bool.and_eq_true_iff.mp hSS
  refine ⟨fun hy => ?xor, ?not, ?id⟩
  case xor =>
    refine shares_written hs hd hparties (exec_gateXor_ok hparties hx hSSS hy) (length_vecXor_share _ x y) fun i => ?_
    rw [bitAt_vecXor ((length_share _ x).trans (length_share _ y).symm), bitAt_share, bitAt_share, Bool.and_xor_distrib_left]
  case not =>
    refine shares_written hs hd hparties (exec_gateNot_ok hparties hx hSS) (length_gateNotOf_share _ _ x) fun i => ?_
    rw [bitAt_gateNotOf, length_share, bitAt_share]
    cases decide (i < s.partyCount) <;> rfl
  case id =>
    exact shares_written hs hd hparties (exec_gateId_ok hparties hx hSS) (length_share _ x) (bitAt_share _ x)

/-! ### What GATE.AND and GATE.OR write -/

/-- The destination and the triple of a well-formed GATE.AND or GATE.OR stand in their files. -/
theorem okS_okT_of_wellFormed (hwf : (Instr.gateAnd d x y k).wellFormed s.cfg = true) : s.okS d = true ∧ s.okT k = true := by
  have hidx := okSSST_of_wellFormed hwf
  simp only [Bool.and_eq_true] at hidx
  obtain ⟨⟨⟨hd, -⟩, -⟩, hk⟩ := hidx
  exact ⟨hd, hk⟩

/-- The state after a GATE.AND or GATE.OR with output shares `z` (rules R132, R133). -/
def State.gated (s : State) (d x y k : RegIdx) (z : Vec) : State := (tripleGate d x y k z s).retire

theorem sreg_gated (hs : s.FilesOk) (hd : s.okS d = true) :
    (s.gated d x y k z).sreg d = { cnt := s.partyCount, b := partyStore z } :=
  sreg_putShare_same (lt_length_sh hs hd : d.toNat < s.sh.length)

/-- The gate uses up its triple and leaves the triple's bits (rule R130). -/
theorem treg_gated (hs : s.FilesOk) (hk : s.okT k = true) :
    (s.gated d x y k z).treg k = { s.treg k with valid := false } :=
  treg_putTriple_same (hs.tr.1.symm ▸ of_decide_eq_true hk)

theorem getLsbD_gated (hs : s.FilesOk) (hd : s.okS d = true) (hparties : s.okParties = true) (hz : z.length = s.partyCount)
    (i : ℕ) : ((s.gated d x y k z).sreg d).b.getLsbD i = bitAt z i :=
  getLsbD_written_share (sreg_gated hs hd) hz (partyCount_le hs hparties) i

theorem share_gated (hs : s.FilesOk) (hd : s.okS d = true) (hparties : s.okParties = true) (hz : z.length = s.partyCount) :
    (s.gated d x y k z).share s.partyCount d = z :=
  written_share (sreg_gated hs hd) hz (partyCount_le hs hparties)

theorem onlyTripleGate_gated (hs : s.FilesOk) (hk : s.okT k = true) : onlyTripleGate d k s (s.gated d x y k z) :=
  ⟨rfl, List.length_set, fun _ hi => List.getElem?_set_ne hi.symm, List.length_set,
    fun _ hi => List.getElem?_set_ne hi.symm, treg_gated hs hk⟩

theorem vptr_gated : (s.gated d x y k z).vptr = s.vptr + 5 + 2 * s.partyCount := rfl

theorem views_gated : (s.gated d x y k z).views =
    (s.appendViews s.partyCount (s.share s.partyCount x) (s.share s.partyCount y) (s.tripleA s.partyCount k)
      (s.tripleB s.partyCount k) (s.tripleC s.partyCount k)).views := rfl

theorem length_views_gated : (s.gated d x y k z).views.length = s.views.length := by
  simp [views_gated, State.appendViews]

/-- What one party's buffer takes: the party's record, or zeros above party `n` (rule R129, log entry 11). -/
theorem getD_views_appendViews {X Y A B C : Vec} {p : ℕ} (hp : p < s.views.length) :
    (s.appendViews n X Y A B C).views.getD p [] = s.views.getD p [] ++
      if p < n then viewRecord X Y A B C p else List.replicate (5 + 2 * n) false := by
  simp [State.appendViews, hp]

/-- Party `p + 1`'s buffer after the gate (rule R129). -/
theorem getD_views_gated_party {p : ℕ} (hviews : p < s.views.length) (hp : p < s.partyCount) :
    (s.gated d x y k z).views.getD p [] = s.views.getD p [] ++
      [(s.treg k).a.getLsbD p, (s.treg k).b.getLsbD p, (s.treg k).c.getLsbD p, (s.sreg x).b.getLsbD p,
        (s.sreg y).b.getLsbD p] ++
      ((List.range s.partyCount).map fun i => xor ((s.sreg x).b.getLsbD i) ((s.treg k).a.getLsbD i)) ++
      ((List.range s.partyCount).map fun i => xor ((s.sreg y).b.getLsbD i) ((s.treg k).b.getLsbD i)) := by
  have hrecord := viewRecord_partyValue hp (s.sreg x).b (s.sreg y).b (s.treg k).a (s.treg k).b (s.treg k).c
  rw [views_gated, getD_views_appendViews hviews, if_pos hp]
  exact (congrArg (s.views.getD p [] ++ ·) hrecord).trans (by simp only [List.append_assoc])

theorem getD_views_gated_above {p : ℕ} (hviews : p < s.views.length) (hp : s.partyCount ≤ p) :
    (s.gated d x y k z).views.getD p [] = s.views.getD p [] ++ List.replicate (5 + 2 * s.partyCount) false := by
  rw [views_gated, getD_views_appendViews hviews, if_neg (Nat.not_lt.mpr hp)]

/-! ### GATE.AND and GATE.OR -/

/-- GATE.AND's output shares of the registers `x`, `y` and the triple `k` (rule R132). -/
def State.andShares (s : State) (x y k : RegIdx) : Vec :=
  gateAndOf (s.share s.partyCount x) (s.share s.partyCount y) (s.tripleA s.partyCount k) (s.tripleB s.partyCount k)
    (s.tripleC s.partyCount k)

/-- GATE.OR's output shares of the registers `x`, `y` and the triple `k` (rule R133). -/
def State.orShares (s : State) (x y k : RegIdx) : Vec :=
  gateOrOf (s.share s.partyCount x) (s.share s.partyCount y) (s.tripleA s.partyCount k) (s.tripleB s.partyCount k)
    (s.tripleC s.partyCount k)

theorem length_andShares (x y k : RegIdx) : (s.andShares x y k).length = s.partyCount :=
  length_gateAndOf (length_share _ x) (length_share _ y) (length_valueOf _ _)

theorem length_orShares (x y k : RegIdx) : (s.orShares x y k).length = s.partyCount :=
  length_gateOrOf (length_share _ x) (length_share _ y) (length_valueOf _ _)

/-- AND's output share of party `i + 1`, with the opened values `D` and `E` (rule R127). -/
theorem bitAt_andShares {i : ℕ} (hi : i < s.partyCount) {D E : Bool}
    (hD : D = parity ((List.range s.partyCount).map fun i => xor ((s.sreg x).b.getLsbD i) ((s.treg k).a.getLsbD i)))
    (hE : E = parity ((List.range s.partyCount).map fun i => xor ((s.sreg y).b.getLsbD i) ((s.treg k).b.getLsbD i))) :
    bitAt (s.andShares x y k) i =
      xor (xor ((s.treg k).c.getLsbD i) (xor ((s.sreg x).b.getLsbD i && E) ((s.sreg y).b.getLsbD i && D)))
        (decide (i = 0) && (D && E)) := by
  rw [← vecXor_partyValue] at hD hE
  rw [← bitAt_partyValue_of_lt hi (s.treg k).c, ← bitAt_partyValue_of_lt hi (s.sreg x).b,
    ← bitAt_partyValue_of_lt hi (s.sreg y).b]
  exact bitAt_gateAndOf (length_share _ x) (length_share _ y) (length_valueOf _ _) hi hD hE

/-- OR's output share of one party, from AND's (rule R128). -/
theorem bitAt_orShares {i : ℕ} (hi : i < s.partyCount) : bitAt (s.orShares x y k) i =
    xor (xor (bitAt (s.andShares x y k) i) ((s.sreg x).b.getLsbD i)) ((s.sreg y).b.getLsbD i) := by
  rw [← bitAt_partyValue_of_lt hi (s.sreg x).b, ← bitAt_partyValue_of_lt hi (s.sreg y).b]
  exact bitAt_gateOrOf (length_share _ x) (length_share _ y) (length_valueOf _ _) i

/-- A GATE.AND or GATE.OR that records no error made its writes. -/
theorem gated_of_err_none (h : exec (.gateAnd d x y k) s = .next t ∨ exec (.gateOr d x y k) s = .next t)
    (herr : t.err = none) : ∃ z, t = s.gated d x y k z := by
  have hwrote : ∀ {z : Vec}, complete s (checked (tripleGateChecks d x y k s) (.ok (tripleGate d x y k z s))) = .next t →
      t = s.gated d x y k z := by
    intro z hz
    rcases complete_checked_cases hz with ⟨e, -, rfl⟩ | ⟨-, u, hu, rfl⟩ | ⟨-, e, he, -⟩ | ⟨-, hwait, -⟩
    · cases herr
    · cases hu
      rfl
    · cases he
    · cases hwait
  exact h.elim (fun h => ⟨_, hwrote h⟩) fun h => ⟨_, hwrote h⟩

section

variable (hwf : (Instr.gateAnd d x y k).wellFormed s.cfg = true) (hparties : s.okParties = true)
  (hx : (s.sreg x).cnt = s.partyCount) (hy : (s.sreg y).cnt = s.partyCount) (hvalid : (s.treg k).valid = true)
  (hcnt : (s.treg k).cnt = s.partyCount) (hcap : s.vptr + 5 + 2 * s.partyCount ≤ s.cfg.vcap)
include hwf hparties hx hy hvalid hcnt hcap

theorem tripleGate_checks_hold : firstFail (tripleGateChecks d x y k s) = none :=
  (firstFail_tripleGate_room hparties (okSSST_of_wellFormed hwf) hx hy hvalid hcnt).trans
    (firstFail_cons_true (decide_eq_true hcap))

theorem exec_gateAnd_ok : exec (.gateAnd d x y k) s = .next (s.gated d x y k (s.andShares x y k)) :=
  complete_checked_ok (tripleGate_checks_hold hwf hparties hx hy hvalid hcnt hcap)

theorem exec_gateOr_ok : exec (.gateOr d x y k) s = .next (s.gated d x y k (s.orShares x y k)) :=
  complete_checked_ok (tripleGate_checks_hold hwf hparties hx hy hvalid hcnt hcap)

end

/-- Settles O38: the output shares come from the opened values, and each buffer takes its record. -/
theorem gateAndResult : Obligations.GateAndResult := by
  intro s d x y k X Y A B C D E hshape hwf hparties hx hy hvalid hcnt hcap hX hY hA hB hC hD hE
  subst hX hY hA hB hC
  obtain ⟨hs, -⟩ := State.shape_iff.mp hshape
  obtain ⟨hd, hk⟩ := okS_okT_of_wellFormed hwf
  obtain ⟨-, hpmax⟩ := okParties_iff.mp hparties
  have hlen := length_andShares (s := s) x y k
  have hviews : ∀ {p}, p < s.cfg.pmax → p < s.views.length := fun hp => hp.trans_eq hs.views.1.symm
  refine ⟨_, exec_gateAnd_ok hwf hparties hx hy hvalid hcnt hcap, onlyTripleGate_gated hs hk,
    congrArg SReg.cnt (sreg_gated hs hd), fun i hi => ?share, fun i hi => ?cleared, vptr_gated, length_views_gated,
    fun p hp => getD_views_gated_party (hviews (hp.trans_le hpmax)) hp,
    fun p hp hpm => getD_views_gated_above (hviews hpm) hp⟩
  case share => rw [getLsbD_gated hs hd hparties hlen, bitAt_andShares hi hD hE]
  case cleared => rw [getLsbD_gated hs hd hparties hlen, bitAt_of_le (hlen.trans_le hi)]

/-- Settles O39: GATE.OR differs from GATE.AND only in the output shares it writes. -/
theorem gateOrResult : Obligations.GateOrResult := by
  intro s d x y k hshape hwf hparties hx hy hvalid hcnt hcap
  obtain ⟨hs, -⟩ := State.shape_iff.mp hshape
  obtain ⟨hd, hk⟩ := okS_okT_of_wellFormed hwf
  have hor := length_orShares (s := s) x y k
  refine ⟨_, _, exec_gateOr_ok hwf hparties hx hy hvalid hcnt hcap, exec_gateAnd_ok hwf hparties hx hy hvalid hcnt hcap,
    onlyTripleGate_gated hs hk, rfl, rfl, rfl, congrArg SReg.cnt (sreg_gated hs hd), fun i hi => ?share,
    fun i hi => ?cleared⟩
  case share =>
    rw [getLsbD_gated hs hd hparties hor, getLsbD_gated hs hd hparties (length_andShares x y k), bitAt_orShares hi]
  case cleared => rw [getLsbD_gated hs hd hparties hor, bitAt_of_le (hor.trans_le hi)]

/-! ### The gates' contract (rule R131) and the single use of a triple (rule R130) -/

/-- Rule R131 on the shares of `n` parties. -/
theorem share_values_contract {x y a b c : Vec} (hn : 2 ≤ n) (hx : x.length = n) (hy : y.length = n) (ha : a.length = n)
    (hb : b.length = n) (hc : c.length = n) :
    (reconstruct c = (reconstruct a && reconstruct b) →
      reconstruct (gateAndOf x y a b c) = (reconstruct x && reconstruct y) ∧
      reconstruct (gateOrOf x y a b c) = (reconstruct x || reconstruct y)) ∧
    reconstruct (vecXor x y) = xor (reconstruct x) (reconstruct y) ∧
    reconstruct (gateNotOf false x) = !reconstruct x ∧
    (n % 2 = 1 → reconstruct (gateNotOf true x) = !reconstruct x) ∧
    (n % 2 = 0 → reconstruct (gateNotOf true x) = reconstruct x) := by
  have hpos : 0 < n := by omega
  refine ⟨fun htriple => ⟨reconstruct_gateAndOf hx hy ha hb hc hpos htriple,
      reconstruct_gateOrOf hx hy ha hb hc hpos htriple⟩, parity_vecXor (hx.trans hy.symm),
    reconstruct_gateNotOf_false (hpos.trans_eq hx.symm), fun hodd => ?odd, fun heven => ?even⟩
  case odd => rw [reconstruct_gateNotOf_true, hx, decide_eq_true hodd, Bool.xor_true]
  case even => rw [reconstruct_gateNotOf_true, hx, decide_eq_false (by omega), Bool.xor_false]

/-- Settles O41: each output register holds the gate's output shares, and these obey the contract. -/
theorem gateContract : Obligations.GateContract := by
  refine ⟨fun n x y a b c => share_values_contract, ?_⟩
  intro s d x y k n X Y hshape hwf hparties hn hx hX hY
  subst hn hX hY
  obtain ⟨hs, -⟩ := State.shape_iff.mp hshape
  obtain ⟨hSSS, -⟩ := Bool.and_eq_true_iff.mp (okSSST_of_wellFormed hwf)
  obtain ⟨hSS, -⟩ := Bool.and_eq_true_iff.mp hSSS
  obtain ⟨hd, -⟩ := Bool.and_eq_true_iff.mp hSS
  obtain ⟨hn, -⟩ := okParties_iff.mp hparties
  obtain ⟨htripleGates, hxor, hnot, hnotOdd, hnotEven⟩ := share_values_contract hn (length_share (s := s) _ x)
    (length_share (s := s) _ y) (length_valueOf _ (s.treg k).a) (length_valueOf _ (s.treg k).b) (length_valueOf _ (s.treg k).c)
  refine ⟨fun hy hvalid hcnt hcap htriple => ?triple, fun hy => ?xor, ?not, ?id⟩
  case triple =>
    obtain ⟨hand, hor⟩ := htripleGates htriple
    exact ⟨⟨_, exec_gateAnd_ok hwf hparties hx hy hvalid hcnt hcap,
        (congrArg reconstruct (share_gated hs hd hparties (length_andShares x y k))).trans hand⟩,
      ⟨_, exec_gateOr_ok hwf hparties hx hy hvalid hcnt hcap,
        (congrArg reconstruct (share_gated hs hd hparties (length_orShares x y k))).trans hor⟩⟩
  case xor =>
    rw [← hxor]
    exact reconstruct_shares_written hs hd hparties (exec_gateXor_ok hparties hx hSSS hy) (length_vecXor_share _ x y)
  case not =>
    obtain ⟨t, ht, hvalue⟩ := reconstruct_shares_written hs hd hparties (exec_gateNot_ok hparties hx hSS)
      (length_gateNotOf_share _ _ x)
    refine ⟨t, ht, fun hflips => ?flips, fun hall heven => ?keeps⟩
    case flips =>
      rw [hvalue]
      cases hall : s.job.notAll with
      | false => exact hnot
      | true => exact hnotOdd (hflips.resolve_left (ne_false_of_eq_true hall))
    case keeps => rw [hvalue, hall, hnotEven heven]
  case id => exact reconstruct_shares_written hs hd hparties (exec_gateId_ok hparties hx hSS) (length_share _ x)

/-- Settles O42: the gate left the triple's valid bit clear, and the check of rule R123 looks at it. -/
theorem tripleIsSingleUse : Obligations.TripleIsSingleUse := by
  intro s t u d x y k d' x' y' hshape hwf hexec herr _ htreg hwf' hparties
  obtain ⟨hs, -⟩ := State.shape_iff.mp hshape
  obtain ⟨-, hk⟩ := okS_okT_of_wellFormed hwf
  obtain ⟨z, rfl⟩ := gated_of_err_none hexec herr
  have hused : (u.treg k).valid = false := congrArg TReg.valid (htreg.trans (treg_gated hs hk))
  have hfail : firstFail (tripleGateChecks d' x' y' k u) = some .tripleExhausted :=
    firstFail_tripleGate_inputs hparties (okSSST_of_wellFormed hwf') (.inr (.inr (usable_eq_false (.inl hused))))
  exact ⟨complete_checked_fail hfail, complete_checked_fail hfail⟩

end Sys2Proof.Machine
end

section
/-! PROOFS. What can stop a step: no command and no turn of the engine, and a host access only by its form (rules R38, R138). -/

namespace Sys2Proof.Machine

variable {s : State}

/-! ### Commands and turns of the engine (rule R138) -/

/-- Every command is a completion, and a completion answers a next state. -/
theorem exec_is_next (i : Instr) (s : State) : ∃ t, exec i s = .next t := by
  obtain ⟨r, hr, -⟩ := exec_eq_complete i s
  rw [hr]
  exact complete_is_next s r

theorem turnStep_is_next (s : State) : ∃ t, s.turnStep = .next t := by
  cases hp : s.phase with
  | idle => exact ⟨_, turnStep_idle hp⟩
  | clearing => exact ⟨s.endClearing, by simp only [State.turnStep, hp]⟩
  | running j =>
    cases hd : decode j.word with
    | error e => exact ⟨_, turnStep_of_decode_error hp hd⟩
    | ok i =>
      rw [turnStep_of_decode_ok hp hd]
      exact exec_is_next i s

theorem autoStep_is_next (s : State) : ∃ t, s.autoStep = .next t := turnStep_is_next s.answerTrng

/-! ### Host accesses (rule R38) -/

theorem accessForm_eq_false_iff {addr size : Nat} :
    accessForm addr size = false ↔ size ≠ 4 ∨ addr % 4 ≠ 0 ∨ 0x1000 ≤ addr := by
  simp only [accessForm, Bool.and_eq_false_iff, decide_eq_false_iff_not, Nat.not_lt, or_assoc]

theorem memRead_of_form_eq_false {addr size : Nat} (h : accessForm addr size = false) :
    s.memRead addr size = .refused .hostAccessForm := by
  rw [State.memRead, h]
  rfl

theorem memWrite_of_form_eq_false {addr size : Nat} (x : Word) (h : accessForm addr size = false) :
    s.memWrite addr size x = .refused .hostAccessForm := by
  rw [State.memWrite, h]
  rfl

/-- The event is a host access whose size or offset the bus cannot express (rule R38). -/
def EnvEvent.Inexpressible (e : EnvEvent) : Prop :=
  ∃ addr size, (size ≠ 4 ∨ addr % 4 ≠ 0 ∨ 0x1000 ≤ addr) ∧ (e = .read addr size ∨ ∃ x, e = .write addr size x)

/-- Every event but an inexpressible access is answered: the host's wait reads STATUS in the bus's own form. -/
theorem envStep_is_next_or_refused (s : State) (e : EnvEvent) :
    (∃ t, s.envStep e = .next t) ∨ (s.envStep e = .refused .hostAccessForm ∧ e.Inexpressible) := by
  cases e with
  | read addr size =>
    cases hform : accessForm addr size with
    | true => exact .inl ⟨_, if_pos hform⟩
    | false =>
      exact .inr ⟨memRead_of_form_eq_false hform, addr, size, accessForm_eq_false_iff.mp hform, .inl rfl⟩
  | write addr size x =>
    cases hform : accessForm addr size with
    | true => exact .inl ⟨_, if_pos hform⟩
    | false =>
      exact .inr ⟨memWrite_of_form_eq_false x hform, addr, size, accessForm_eq_false_iff.mp hform, .inr ⟨x, rfl⟩⟩
  | poll =>
    left
    simp only [State.envStep]
    split
    · exact autoStep_is_next _
    · exact ⟨_, memRead_aligned rfl (by decide)⟩
  | resetPin => exact .inl ⟨s.hardReset, rfl⟩
  | trng b => exact .inl ⟨s.trngValid b, rfl⟩
  | turn => exact .inl (turnStep_is_next s)

theorem step_cons {e : EnvEvent} {rest : List EnvEvent} (henv : s.env = e :: rest) :
    step s = ({ s with env := rest } : State).envStep e := by
  simp only [step, henv]

/-- Settles O6: a command is a completion, and of the events a step takes only an access of another form is not answered. -/
theorem onlyInexpressibleAccessesStopAStep : Obligations.OnlyInexpressibleAccessesStopAStep := by
  refine ⟨exec_is_next, fun s => ?_⟩
  cases henv : s.env with
  | nil =>
    rw [step_nil henv]
    exact .inl (autoStep_is_next s)
  | cons e rest =>
    rw [step_cons henv]
    exact (envStep_is_next_or_refused _ e).imp_right fun ⟨hrefused, he⟩ => ⟨hrefused, e, rest, rfl, he⟩

end Sys2Proof.Machine
end

section
/-! PROOFS. A command that records an error writes nothing else and has requested no true-random bit (rules R141, R144): a
command that requests bits has passed every check. -/

namespace Sys2Proof.Machine

variable {s t : State} {j : Job} {i : Instr}

theorem OperationFrame.err_eq {u : State} (h : OperationFrame s u) : u.err = s.err := by rw [h.eq]

/-- The outcome of a command that draws true-random bits, short of them or not, when every check of it holds (rule R113). -/
theorem err_of_complete_drawing {cs : List (Bool × CmdError)} {short : Prop} [Decidable short] {u : State}
    (hframe : OperationFrame s u) (hchecks : firstFail cs = none)
    (h : complete s (checked cs (if short then .wait else .ok u)) = .next t) : t.err = s.err := by
  rw [checked_pass hchecks] at h
  split at h <;> cases h
  · rfl
  · exact hframe.err_eq

/-- Bits that are needed only when no check fails (rule R144). -/
theorem firstFail_of_need_pos {cs : List (Bool × CmdError)} {n : Nat}
    (h : 0 < if (firstFail cs).isNone then n else 0) : firstFail cs = none := by
  by_contra hfail
  rw [if_neg (mt Option.isNone_iff_eq_none.mp hfail)] at h
  exact Nat.lt_irrefl 0 h

/-- SHARE and TGEN alone need bits; where they need any, no check failed, so they wait or complete without an error. -/
theorem exec_err_of_trngNeed_pos (hneed : 0 < trngNeed i s) (h : exec i s = .next t) : t.err = s.err := by
  cases i with
  | share | tgen => exact err_of_complete_drawing ⟨rfl⟩ (firstFail_of_need_pos hneed) h
  | _ => exact absurd hneed (Nat.lt_irrefl 0)

/-- A command that recorded an error had no request outstanding (rule R144). -/
theorem trngReq_of_exec_err (hp : s.phase = .running j) (hd : decode j.word = .ok i) (h : exec i s = .next t)
    (herr : t.err ≠ s.err) : s.trngReq = false := by
  refine Bool.eq_false_iff.mpr fun hreq => herr ?_
  have hneed : j.trngBits.length < trngNeed i s := (trngReq_iff hp hd).mp hreq
  exact exec_err_of_trngNeed_pos (Nat.zero_lt_of_lt hneed) h

/-- A word that is no command requests no bit. -/
theorem trngReq_of_decode_error {e : DecodeError} (hp : s.phase = .running j) (hd : decode j.word = .error e) :
    s.trngReq = false := by
  simp [State.trngReq, State.trngMissing, hp, hd]

/-- A command that changed ERR.CODE recorded an error, and did nothing else (rules R73, R141). -/
theorem exec_eq_failCommand_of_err_ne (h : exec i s = .next t) (herr : t.err ≠ s.err) : ∃ e, t = s.failCommand e := by
  rcases exec_cases h with rfl | hfail | ⟨u, hframe, rfl⟩
  · exact absurd rfl herr
  · exact hfail
  · exact absurd hframe.err_eq herr

/-- The recording of an error, written out (rule R141). -/
theorem failCommand_of_running (hp : s.phase = .running j) (e : CmdError) :
    s.failCommand e = { s with err := some e, errCmd := j.word, phase := .idle, done := true } := by
  rw [State.failCommand, job_of_running hp]

/-- Settles O7: no error stood before the turn, so the turn recorded it, for a word that is no command or for a command. -/
theorem noPartialResult : Obligations.NoPartialResult := by
  intro s t j hp hnone hturn herr
  suffices hfail : (∃ e, t = s.failCommand e) ∧ s.trngReq = false from
    hfail.imp_left fun ⟨e, he⟩ => ⟨e, he.trans (failCommand_of_running hp e)⟩
  cases hd : decode j.word with
  | error e =>
    rw [turnStep_of_decode_error hp hd] at hturn
    cases hturn
    exact ⟨⟨_, rfl⟩, trngReq_of_decode_error hp hd⟩
  | ok i =>
    rw [turnStep_of_decode_ok hp hd] at hturn
    have hrecorded : t.err ≠ s.err := fun h => herr (h.trans hnone)
    exact ⟨exec_eq_failCommand_of_err_ne hturn hrecorded, trngReq_of_exec_err hp hd hturn hrecorded⟩

end Sys2Proof.Machine
end

section
/-! PROOFS. Both reset sources give the reset state, and the engine's turn ends the reset-clearing phase (rules R157 to R159). -/

namespace Sys2Proof.Machine

variable {s : State}

/-- A CTRL write with SRST = 1 is the soft reset, whatever its other bits are (rule R28). -/
theorem writeCtrl_srst {x : Word} (h : x.getLsbD 31 = true) : s.writeCtrl x = s.hardReset := by
  rw [State.writeCtrl, if_pos h]

/-- The generator's reset value as rule R159 writes it: S all ones, INIT = 0. -/
theorem Lfsr.reset_eq_allOnes : Lfsr.reset = { s := BitVec.allOnes 80, init := false } := rfl

theorem turnStep_clearing (hp : s.phase = .clearing) : s.turnStep = .next s.endClearing := by
  rw [State.turnStep, hp]

/-- Outside the reset-clearing phase the soft reset is the hardware reset (rules R28, R157). -/
theorem memWrite_ctrl_srst {x : Word} (h : x.getLsbD 31 = true) (hp : s.phase ≠ .clearing) :
    s.memWrite 0x014 4 x = .next s.hardReset := by
  rw [memWrite_ctrl x hp, writeCtrl_srst h]

/-- Settles O49: both sources give `hardReset`, whose elements are the empty values written out. -/
theorem resetSourcesAgree : Obligations.ResetSourcesAgree := by
  intro s x hsrst
  refine ⟨s.hardReset, rfl, memWrite_ctrl_srst hsrst, rfl, ?elements, ?busy, turnStep_clearing (hardReset_phase s), rfl⟩
  case elements =>
    simp only [State.hardReset, State.resetOf, VReg.empty, MReg.empty, SReg.empty, TReg.empty, Ctx.empty, CxParams.zero,
      Lfsr.reset_eq_allOnes]
  case busy => exact busy_iff.mpr (by simp)

end Sys2Proof.Machine
end
